-- ==== Sys2Proof/Word.lean ====
section
/-! DEFINITION. The word types of the frames and of the plan generation. -/

namespace Sys2Proof

/-- One byte of a frame (Tables 11.1.1 and 11.1.2). -/
abbrev Byte := BitVec 8

/-- The plan generation, 0..65535, which wraps (R17), and every two-byte field. -/
abbrev Word16 := BitVec 16

/-- A tuning word, taken modulo 2^32 (R19), and every four-byte field. -/
abbrev Word32 := BitVec 32

end Sys2Proof
end

