-- ==== Sys2Proof/Syntax.lean ====
section
/-! DEFINITION. The commands of the block: one constructor of `Instr` for each row of spec/opcode_table.json, with the
row's operands. -/

namespace Sys2Proof

/-- The two control ports (chapter 9). -/
inductive Port where
  | a
  | b
  deriving DecidableEq, Repr

/-- The two sample links (chapter 3). -/
inductive Feed where
  | a
  | b
  deriving DecidableEq, Repr

/-- The two reception paths of a slot (R9). -/
inductive PathName where
  | primary
  | fallback
  deriving DecidableEq, Repr

/-- A slot index, 0..15 (R1). -/
abbrev SlotIx := Fin 16

/-- A preset number, 0..3 (R134). -/
abbrev PresetIx := Fin 4

/-- What reaches the Channel Monitor for one slot at one monitor interval (R61, R62): the level the link delivers on each
path, and which of the slot's two measurements is taken first, where the order matters (R81). The level of a path that
the slot does not have is not looked at. -/
structure Delivered where
  primary : Int
  fallback : Int
  fallbackFirst : Bool
  deriving DecidableEq, Repr

/-- The deliveries of one monitor interval, one for each slot. -/
abbrev Levels := Vector Delivered 16

/-- A command frame after its code (Table 11.1.1): the declared payload length and the payload bytes that were delivered.
The frame was delivered short when fewer bytes came than it declares (R168). -/
structure Body where
  declared : Byte
  payload : List Byte
  deriving DecidableEq, Repr

/-- The SUBMIT_CHANGE frames that reach the ports: one, or one at each port together, which the arbiter orders (R29). -/
inductive Submission where
  | single (p : Port) (body : Body)
  | together (bodyA bodyB : Body)
  deriving DecidableEq, Repr

/-- The commands of the block. The first word of each docstring is the row's mnemonic. -/
inductive Instr where
  /-- DEVICE_RESET (R115). -/
  | deviceReset
  /-- END_OF_RESET (R143), with the PROT lines as they stand at that moment (R115). -/
  | endOfReset (protHi protLo : Bool)
  /-- GOOD_MARKER (R56). -/
  | goodMarker (f : Feed)
  /-- BAD_MARKER (R57). -/
  | badMarker (f : Feed)
  /-- MISSING_MARKER (R57). -/
  | missingMarker (f : Feed)
  /-- MONITOR_INTERVAL (R61). -/
  | monitorInterval (levels : Levels)
  /-- HOLD_OFF_EXPIRY (R80). -/
  | holdOffExpiry (k : SlotIx)
  /-- STEP_EVENT (R92). -/
  | stepEvent (k : SlotIx)
  /-- PROTECTION_LEVEL_CHANGE (R117), with the new PROT lines. -/
  | protectionLevelChange (protHi protLo : Bool)
  /-- WARM_UP_EXPIRY (R119). -/
  | warmUpExpiry
  /-- QUIET_EXPIRY (R123). -/
  | quietExpiry
  /-- TRIP_HISTORY_DEPARTURE (R130). -/
  | tripHistoryDeparture
  /-- ASSIGN_SLOT, its taking (R46). -/
  | assignSlot
  /-- RELEASE_SLOT, its taking (R46). -/
  | releaseSlot
  /-- SET_POWER, its taking (R41). -/
  | setPower
  /-- SET_THRESHOLDS, its taking (R68). -/
  | setThresholds
  /-- SET_SLOT_ENABLE, its taking (R41). -/
  | setSlotEnable
  /-- SET_PLAN_PARAMS, its taking (R41). -/
  | setPlanParams
  /-- SET_TRANSMIT, its taking (R118). -/
  | setTransmit
  /-- LOAD_PRESET, its taking (R47). -/
  | loadPreset
  /-- CLEAR_LOCKOUT, its taking (R131). -/
  | clearLockout
  /-- SELECT_PERIOD_START (R148). -/
  | selectPeriodStart (p : Port)
  /-- SELECT_PERIOD_END (R149), with the bytes shifted in; their number is the length of the period. -/
  | selectPeriodEnd (p : Port) (shifted : List Byte)
  /-- UNKNOWN (R170): a frame whose code is no command. -/
  | unknown (p : Port) (code : Byte) (body : Body)
  /-- SUBMIT_CHANGE (R25). -/
  | submitChange (sub : Submission)
  /-- READ_SLOT (R172). -/
  | readSlot (p : Port) (body : Body)
  /-- READ_PLAN (R173). -/
  | readPlan (p : Port) (body : Body)
  /-- READ_TRANSMITTER (R132). -/
  | readTransmitter (p : Port) (body : Body)
  /-- READ_FEEDS (R173). -/
  | readFeeds (p : Port) (body : Body)
  /-- READ_OUTCOMES (R174). -/
  | readOutcomes (p : Port) (body : Body)
  /-- READ_EVENTS (R165). -/
  | readEvents (p : Port) (body : Body)
  /-- READ_STORE (R141). -/
  | readStore (p : Port) (body : Body)
  /-- SET_EVENT_MASK (R163). -/
  | setEventMask (p : Port) (body : Body)
  /-- SET_PEER_FLAGS (R156). -/
  | setPeerFlags (p : Port) (body : Body)
  /-- SET_SILENCE (R157). -/
  | setSilence (p : Port) (body : Body)
  /-- SCAN_RANGE (R160). -/
  | scanRange (p : Port) (body : Body)
  /-- SCAN_NEXT (R160). -/
  | scanNext (p : Port) (body : Body)
  /-- SAVE_PRESET (R137). -/
  | savePreset (p : Port) (body : Body)
  /-- ERASE_PRESET (R138). -/
  | erasePreset (p : Port) (body : Body)
  /-- SET_BOOT (R138). -/
  | setBoot (p : Port) (body : Body)
  /-- END_OF_ERASING of a save (R137). -/
  | endOfErasing
  /-- END_OF_PROGRAMMING of a save (R137), with the outcome of the verification, which the memory decides. -/
  | endOfProgramming (verified : Bool)
  /-- ERASE_COMPLETION (R138). -/
  | eraseCompletion
  /-- BOOT_SELECTOR_WRITE_COMPLETION (R138). -/
  | bootSelectorWriteCompletion
  /-- READ_COMPLETION (R49). -/
  | readCompletion
  /-- HOLD_OUTPUT, its taking from the port's urgent register (R127). -/
  | holdOutput (p : Port)
  /-- RELEASE_OUTPUT, its taking (R127). -/
  | releaseOutput (p : Port)
  /-- PURGE_CHANGES, its taking (R32). -/
  | purgeChanges (p : Port)
  /-- PORT_CLEAR, its taking (R155). -/
  | portClear (p : Port)
  /-- SILENCE_EXPIRY (R158). -/
  | silenceExpiry (p : Port)
  deriving DecidableEq, Repr

end Sys2Proof
end

