-- ==== Sys2Proof/Decode.lean ====
section
/-! DEFINITION. The command that a word spells by the opcode table's bits. No row of spec/opcode_table.json gives bits
(spec/98_reader.md: no row has "fixed" or "fields"), so no word spells a command (notes/assumptions/17.md). The frames of
chapter 11 are no such words: they are parsed by Sys2Proof/Machine/Operands.lean. -/

namespace Sys2Proof

/-- The command that the word w of nbits bits spells: none, since the table gives no row any bits. -/
def decodeTableWord (_nbits _w : Nat) : Option Instr := none

end Sys2Proof
end

