-- ==== Sys2Proof/Config.lean ====
section
/-! DEFINITION. The free values: what the manual leaves to the world outside the part or to no rule at all. Each is an
opaque constant with no body, read at the counter `fresh` of the state (notes/assumptions/10.md). -/

namespace Sys2Proof

/-- The level a link delivers on a path of a slot at a monitor interval that the part runs by itself (R62): any
integer, since the datapath's measurement lies outside the manual. The first number is the counter, the second
the slot, the mark is true for the fallback path. -/
opaque Config.linkLevel : Nat → Nat → Bool → Int

/-- Which of the two notices of one slot comes first at a monitor interval that the part runs by itself: "either may be
first" (R81). -/
opaque Config.fallbackFirst : Nat → Nat → Bool

/-- Whether the verification at the end of PROGRAMMING passes: "the memory decides which" (R137). -/
opaque Config.verifyPasses : Nat → Bool

/-- Which of several due events comes first, where the manual says "either may be first", and whether a pending urgent
command is taken before time passes: "its delay is not bounded" (R153). -/
opaque Config.idleChoice : Nat → Nat

end Sys2Proof
end

