-- ==== Sys2Proof/Machine/Bytes.lean ====
section
/-! DEFINITION. Byte order and number forms of the frames (R168): most significant byte first, two's complement. -/

namespace Sys2Proof.Machine

/-- A byte value named absent (R168). -/
def absentByte : Byte := 0xFF

/-- A number as one byte. -/
def byteOfNat (n : Nat) : Byte := BitVec.ofNat 8 n

/-- A signed number as one byte (R168). -/
def byteOfInt (n : Int) : Byte := BitVec.ofInt 8 n

/-- A yes/no value as one byte: 1 or 0. -/
def byteOfBool (b : Bool) : Byte := if b then 1 else 0

/-- Two bytes, most significant first (R168). -/
def bytes16 (w : Word16) : List Byte := [w.extractLsb' 8 8, w.extractLsb' 0 8]

/-- Four bytes, most significant first (R168). -/
def bytes32 (w : Word32) : List Byte :=
  [w.extractLsb' 24 8, w.extractLsb' 16 8, w.extractLsb' 8 8, w.extractLsb' 0 8]

/-- A number as two bytes. -/
def bytesOfNat16 (n : Nat) : List Byte := bytes16 (BitVec.ofNat 16 n)

/-- A signed number as four bytes (R168). -/
def bytesOfInt32 (n : Int) : List Byte := bytes32 (BitVec.ofInt 32 n)

/-- A flags byte whose bit i is the i-th mark of the list. -/
def byteOfBits (bits : List Bool) : Byte :=
  bits.foldr (fun b acc => (acc <<< 1) ||| byteOfBool b) 0

/-- The byte at a place of a payload, 0 where the payload is shorter. -/
def byteAt (xs : List Byte) (i : Nat) : Byte := xs.getD i 0

/-- The two-byte field at a place of a payload (R168). -/
def word16At (xs : List Byte) (i : Nat) : Word16 := byteAt xs i ++ byteAt xs (i + 1)

/-- The four-byte field at a place of a payload (R168). -/
def word32At (xs : List Byte) (i : Nat) : Word32 := word16At xs i ++ word16At xs (i + 2)

end Sys2Proof.Machine
end

