-- ==== Sys2Proof/Machine/State.lean ====
section
/-! DEFINITION. The state of the ZT16, block by block, and its value right after a device reset. -/

namespace Sys2Proof.Machine

/-- One value for each of two like things: the ports A and B, the receivers A and B. -/
structure Pair (α : Type) where
  a : α
  b : α
  deriving DecidableEq, Repr

/-! ## The Channel Plan (chapter 1) -/

/-- A reception path: a feed and an input offset in kHz (R9). -/
structure RxPath where
  feed : Feed
  offset : Int
  deriving DecidableEq, Repr

/-- What a LOST slot carries (R13). -/
inductive LossAction where
  | mute
  | pilot
  deriving DecidableEq, Repr

/-- A slot record (Table 1.3.1). `width` is the width code, 0..3 in the applied plan (R10). -/
structure SlotRecord where
  assigned : Bool
  enabled : Bool
  primary : RxPath
  fallback : Option RxPath
  output : Int
  width : Nat
  power : Nat
  tLoss : Int
  hyst : Nat
  lossDwell : Nat
  restoreDwell : Nat
  lossAction : LossAction
  wakes : Bool
  deriving DecidableEq, Repr

/-- The rest values of a slot record (Table 1.3.2). -/
def SlotRecord.rest : SlotRecord where
  assigned := false
  enabled := false
  primary := ⟨.a, 0⟩
  fallback := none
  output := 0
  width := 0
  power := 0
  tLoss := -90
  hyst := 1
  lossDwell := 1
  restoreDwell := 1
  lossAction := .mute
  wakes := false

/-- The plan-wide fields (Table 1.2.1). -/
structure PlanWide where
  budget : Nat
  rampStep : Nat
  warmUpCode : Nat
  quietTime : Nat
  holdOff : Nat
  txEnable : Bool
  deriving DecidableEq, Repr

/-- The defaults of Table 1.2.1, which the empty plan holds (R2). -/
def PlanWide.default : PlanWide where
  budget := 1000
  rampStep := 8
  warmUpCode := 2
  quietTime := 60
  holdOff := 5
  txEnable := false

/-- A plan image: the six plan-wide fields and all sixteen slot records (R134). -/
structure PlanImage where
  wide : PlanWide
  records : Vector SlotRecord 16
  deriving DecidableEq, Repr

/-- The tuning words of a slot, each 0 where the slot is EMPTY or has no such path (R19, R172). -/
structure TuningWords where
  out : Word32
  primary : Word32
  fallback : Word32
  deriving DecidableEq, Repr

/-! ## Live state of a slot (chapters 2 to 6) -/

/-- The judgement of the Channel Monitor on a path (R60). -/
inductive Quality where
  | good
  | bad
  deriving DecidableEq, Repr

/-- The path state (R60). -/
structure PathState where
  level : Int
  quality : Quality
  dwell : Nat
  deriving DecidableEq, Repr

/-- The rest values of a path state, and those of a newly assigned path (R60, R67). -/
def PathState.rest : PathState where
  level := -128
  quality := .bad
  dwell := 0

/-- The source state of a slot (R70). -/
inductive Source where
  | onPrimary
  | onFallback
  | lost
  deriving DecidableEq, Repr

/-- What a transmitting slot carries (R70, R84). -/
inductive Content where
  | program
  | pilot
  deriving DecidableEq, Repr

/-- The five items of the Path Selector for a slot (R70). `holdOff` is none while the timer is stopped, otherwise the
remaining time in ms. -/
structure Selector where
  source : Source
  lastPath : PathName
  holdOff : Option Nat
  switchPending : Bool
  content : Content
  deriving DecidableEq, Repr

/-- The rest values of R70. -/
def Selector.rest : Selector where
  source := .lost
  lastPath := .primary
  holdOff := none
  switchPending := false
  content := .program

/-- The transmission state of a slot (R87). -/
inductive RampState where
  | off
  | rampUp
  | on
  | rampDown
  deriving DecidableEq, Repr

/-- The three items of the Ramp Controller for a slot (R87). `timer` is none while the step timer is stopped, otherwise the
remaining time in ms. -/
structure Ramp where
  state : RampState
  step : Nat
  timer : Option Nat
  deriving DecidableEq, Repr

/-- OFF at step 0 with the step timer stopped (R87). -/
def Ramp.rest : Ramp where
  state := .off
  step := 0
  timer := none

/-- A slot: its record and tuning words (chapter 1), its paths (3), its selection (4), its ramp (5), its grant and radiated
share (6), and the Plan Engine's retuning mark (2). -/
structure Slot where
  record : SlotRecord
  words : TuningWords
  primary : PathState
  fallback : PathState
  sel : Selector
  ramp : Ramp
  grant : Nat
  share : Nat
  retuning : Bool
  deriving DecidableEq, Repr

/-- An EMPTY slot as a device reset leaves it (R2, R60, R70, R87, R101). -/
def Slot.rest : Slot where
  record := .rest
  words := ⟨0, 0, 0⟩
  primary := .rest
  fallback := .rest
  sel := .rest
  ramp := .rest
  grant := 0
  share := 0
  retuning := false

/-! ## Change Queue and Plan Engine (chapter 2) -/

/-- The nine change kinds (Table 2.1.1). -/
inductive ChangeKind where
  | assignSlot
  | releaseSlot
  | setPower
  | setThresholds
  | setSlotEnable
  | setPlanParams
  | setTransmit
  | loadPreset
  | clearLockout
  deriving DecidableEq, Repr

/-- A change: its kind with the arguments the kind carries (Table 2.1.1). -/
inductive Change where
  | assignSlot (k : SlotIx) (r : SlotRecord)
  | releaseSlot (k : SlotIx)
  | setPower (k : SlotIx) (p : Nat)
  | setThresholds (k : SlotIx) (tLoss : Int) (hyst lossDwell restoreDwell : Nat)
  | setSlotEnable (k : SlotIx) (enabled : Bool)
  | setPlanParams (budget rampStep warmUpCode quietTime holdOff : Nat)
  | setTransmit (txEnable : Bool)
  | loadPreset (n : PresetIx)
  | clearLockout
  deriving DecidableEq, Repr

/-- The class of an entry (R23). -/
inductive ChangeClass where
  | expedited
  | normal
  deriving DecidableEq, Repr

/-- A change entry (R23). -/
structure Entry where
  ticket : Byte
  origin : Port
  cls : ChangeClass
  change : Change
  expected : Option Word16
  deriving DecidableEq, Repr

/-- The Change Queue: its entries, oldest first, its ticket counter and its last-served mark (R26, R29, R31). -/
structure ChangeQueue where
  entries : List Entry
  counter : Byte
  lastServed : Port
  deriving DecidableEq, Repr

/-- The Plan Engine's state; the in-flight change is present in DRAINING and LOADING only (Table 2.4.1). -/
inductive Engine where
  | booting
  | idle
  | draining (e : Entry)
  | loading (e : Entry)
  deriving DecidableEq, Repr

/-- The outcome codes (Table 2.7.1). -/
inductive OutcomeCode where
  | applied
  | stale
  | overlap
  | outOfBand
  | badWidth
  | emptySlot
  | presetInvalid
  | storeBusy
  | wrongState
  | purged
  deriving DecidableEq, Repr

/-- An outcome record (R52). -/
structure OutcomeRecord where
  ticket : Byte
  kind : ChangeKind
  argument : Option Nat
  code : OutcomeCode
  generation : Option Word16
  deriving DecidableEq, Repr

/-! ## Feed receivers (chapter 3) -/

/-- The link state of a feed receiver (R54). -/
inductive LinkState where
  | search
  | locked
  deriving DecidableEq, Repr

/-- A feed receiver (R54). -/
structure Receiver where
  link : LinkState
  good : Nat
  miss : Nat
  deriving DecidableEq, Repr

/-! ## Output Controller (chapter 7) -/

/-- The target of CLOSING (R115). -/
inductive Target where
  | standby
  | offAir
  deriving DecidableEq, Repr

/-- The transmitter state (R115). -/
inductive TxState where
  | offAir
  | warmUp
  | onAir
  | closing (target : Target)
  | standby
  | tripped
  | lockout
  deriving DecidableEq, Repr

/-- The protection level (R117). -/
inductive Protection where
  | normal
  | foldback
  | trip
  deriving DecidableEq, Repr

/-- The Output Controller's state (R115). `trips` holds the time of each recorded trip, oldest first, on the clock `now`;
`warmUp` is the remaining time in ms and `quiet` the elapsed time in ms, none while the timer is stopped. -/
structure Output where
  state : TxState
  paEn : Bool
  hold : Pair Bool
  trips : List Nat
  warmUp : Option Nat
  quiet : Option Nat
  level : Protection
  deriving DecidableEq, Repr

/-! ## Preset Store (chapter 8) -/

/-- A preset's state; VALID carries its plan image (R134, R135). -/
inductive Preset where
  | empty
  | valid (img : PlanImage)
  | corrupt
  deriving DecidableEq, Repr

/-- The store's phase together with the operation in progress (R134, Table 8.2.1): a save in its first phase and in its
second, each with its snapshot; an erase; a boot-selector write; a read, whose starter is the Plan Engine. -/
inductive Activity where
  | idle
  | savingErase (n : PresetIx) (snapshot : PlanImage) (starter : Port)
  | savingProgram (n : PresetIx) (snapshot : PlanImage) (starter : Port)
  | erasing (n : PresetIx) (starter : Port)
  | writingBoot (sel : Option PresetIx) (starter : Port)
  | reading (n : PresetIx)
  deriving DecidableEq, Repr

/-- The store's phase (R134). -/
inductive Phase where
  | idle
  | erasing
  | programming
  | writingBoot
  | reading
  deriving DecidableEq, Repr

/-- An operation that a port can start, with its argument (Table 8.2.1). -/
inductive PortOp where
  | save (n : PresetIx)
  | erase (n : PresetIx)
  | writeBoot (sel : Option PresetIx)
  deriving DecidableEq, Repr

/-- The last result: the operation, its starting port, and DONE (true) or VERIFY_FAILED (false) (R134). -/
structure LastResult where
  op : PortOp
  port : Port
  done : Bool
  deriving DecidableEq, Repr

/-- The boot result (R134). -/
inductive BootResult where
  | pending
  | none
  | empty
  | corrupt
  | loaded
  deriving DecidableEq, Repr

/-- The Preset Store (R134). `presets` and `boot` are non-volatile. -/
structure Store where
  presets : Vector Preset 4
  boot : Option PresetIx
  activity : Activity
  phaseLeft : Nat
  pendingRead : Option PresetIx
  lastResult : Option LastResult
  bootResult : BootResult
  toggle : Pair Bool
  deriving DecidableEq, Repr

/-! ## Control ports (chapters 9 and 10) -/

/-- A command frame as it was delivered (R147, Table 11.1.1). -/
structure Frame where
  code : Byte
  body : Body
  deriving DecidableEq, Repr

/-- The response codes (Table 11.1.2) but EMPTY, which no queued response bears. -/
inductive ResponseCode where
  | ok
  | accepted
  | queueFull
  | malformed
  | unknown
  | storeBusy
  | presetInUse
  deriving DecidableEq, Repr

/-- A queued response: all of its frame but the status summary, which is fixed when a select period starts (R169). -/
structure Response where
  code : ResponseCode
  command : Byte
  payload : List Byte
  deriving DecidableEq, Repr

/-- The selector of PORT_CLEAR (R155). -/
inductive ClearSelector where
  | commands
  | responses
  | both
  deriving DecidableEq, Repr

/-- An urgent command in the register (R153). -/
inductive Urgent where
  | holdOutput
  | releaseOutput
  | purgeChanges
  | portClear (sel : ClearSelector)
  deriving DecidableEq, Repr

/-- The status summary (R148, Table 11.1.4). -/
structure Summary where
  cmdLevel : Nat
  rspLevel : Nat
  overrun : Bool
  urgentPending : Bool
  urgentLost : Bool
  attn : Bool
  peer0 : Bool
  peer1 : Bool
  peerSilent : Bool
  booting : Bool
  deriving DecidableEq, Repr

/-- What a select period in progress has fixed at its start (R148): the outgoing frame (none for EMPTY) with its summary,
and whether that frame still stands at the head of the response queue (a PORT_CLEAR may have removed it, R155). -/
structure Outgoing where
  response : Option Response
  summary : Summary
  atHead : Bool
  deriving DecidableEq, Repr

/-- A control port (R147, R161). `latches`, `mask` hold cause k at bit k - 1 (Table 11.1.8), `changed` slot k at bit k;
`silenceTimer` is the elapsed time in ms, none while stopped; `period` is none outside a select period. -/
structure PortState where
  cmdQueue : List Frame
  rspQueue : List Response
  urgent : Option Urgent
  overrun : Bool
  urgentLost : Bool
  outcomes : List OutcomeRecord
  latches : BitVec 9
  mask : BitVec 9
  changed : BitVec 16
  peer0 : Bool
  peer1 : Bool
  silent : Bool
  silenceTime : Nat
  silenceTimer : Option Nat
  scanFirst : SlotIx
  scanLast : SlotIx
  scanPtr : SlotIx
  period : Option Outgoing
  deriving DecidableEq, Repr

/-- A control port after a device reset (R147, R161). -/
def PortState.rest : PortState where
  cmdQueue := []
  rspQueue := []
  urgent := none
  overrun := false
  urgentLost := false
  outcomes := []
  latches := 0
  mask := 0
  changed := 0
  peer0 := false
  peer1 := false
  silent := false
  silenceTime := 0
  silenceTimer := none
  scanFirst := 0
  scanLast := 15
  scanPtr := 0
  period := none

/-! ## The whole part -/

/-- The state of the part. `pending` is the queue of commands; `resetHeld`, `now` and `fresh` are the model's own
(notes/assumptions/7.md, 10.md and 20.md). -/
structure State where
  pending : List Instr
  wide : PlanWide
  generation : Word16
  slots : Vector Slot 16
  changes : ChangeQueue
  engine : Engine
  feeds : Pair Receiver
  monitorIn : Nat
  bEff : Nat
  out : Output
  store : Store
  ports : Pair PortState
  protHi : Bool
  protLo : Bool
  resetHeld : Bool
  now : Nat
  fresh : Nat
  deriving DecidableEq, Repr

/-- The faults of the machine: none. The manual names nothing that stops the part; every ill-formed frame is answered and
every refused change has an outcome (INVENTORY.md, Faults). No meaning raises a fault. -/
inductive Fault where
  deriving DecidableEq, Repr

/-- The refusals of the machine. -/
inductive Refusal where
  /-- Raised by an arm of `exec` for a row of the table that has no meaning yet; safe, since the model stops where the
  hardware goes on. No arm raises it: every row has its meaning. -/
  | notModelled (mnemonic : String)
  deriving DecidableEq, Repr

/-- A feed receiver after a device reset (R54). -/
def Receiver.rest : Receiver where
  link := .search
  good := 0
  miss := 0

/-- The Output Controller after a device reset (R115). The level stands at NORMAL until the end of the reset takes it from
the PROT lines: DESIGN CHOICE, notes/assumptions/8.md. -/
def Output.rest : Output where
  state := .offAir
  paEn := false
  hold := ⟨false, false⟩
  trips := []
  warmUp := none
  quiet := none
  level := .normal

/-- The Preset Store as the part leaves the factory, after a device reset (R134). -/
def Store.factory : Store where
  presets := Vector.replicate 4 .empty
  boot := none
  activity := .idle
  phaseLeft := 0
  pendingRead := none
  lastResult := none
  bootResult := .pending
  toggle := ⟨false, false⟩

/-- The part as it leaves the factory, right after a device reset and before its END_OF_RESET: every block at the value its
chapter gives (R2, R34, R35, R54, R60, R70, R87, R101, R115, R134, R147, R161). The effective budget stands at the
default budget until the end of the reset forms it: DESIGN CHOICE, notes/assumptions/8.md. -/
def State.reset : State where
  pending := []
  wide := .default
  generation := 0
  slots := Vector.replicate 16 .rest
  changes := ⟨[], 0, .b⟩
  engine := .booting
  feeds := ⟨.rest, .rest⟩
  monitorIn := 10
  bEff := 1000
  out := .rest
  store := .factory
  ports := ⟨.rest, .rest⟩
  protHi := false
  protLo := false
  resetHeld := true
  now := 0
  fresh := 0

end Sys2Proof.Machine
end

