-- ==== Sys2Proof/Machine/Ops.lean ====
section
/-! DEFINITION. The named operations over the state: one of two like things, a slot, a port, a receiver, an outcome list. -/

namespace Sys2Proof.Machine

/-! ## One of two -/

/-- The remaining one of A and B (0.7). -/
def otherPort : Port → Port
  | .a => .b
  | .b => .a

/-- The member of a pair that belongs to a port. -/
def Pair.at {α : Type} (x : Pair α) : Port → α
  | .a => x.a
  | .b => x.b

/-- The pair with one member replaced. -/
def Pair.put {α : Type} (x : Pair α) (p : Port) (v : α) : Pair α :=
  match p with
  | .a => { x with a := v }
  | .b => { x with b := v }

/-! ## Slots -/

/-- The sixteen slots in the order of their indices. -/
def slotIndices : List SlotIx := [0, 1, 2, 3, 4, 5, 6, 7, 8, 9, 10, 11, 12, 13, 14, 15]

/-- The slot at an index. -/
def State.slot (s : State) (k : SlotIx) : Slot := s.slots[k.val]

/-- The state with one slot replaced. -/
def State.putSlot (s : State) (k : SlotIx) (x : Slot) : State := { s with slots := s.slots.set k.val x }

/-- The state with one slot changed. -/
def State.modSlot (s : State) (k : SlotIx) (f : Slot → Slot) : State := s.putSlot k (f (s.slot k))

/-- The state with every slot changed at once, each by its own index. -/
def State.mapSlots (s : State) (f : SlotIx → Slot → Slot) : State :=
  { s with slots := Vector.ofFn fun k => f k (s.slot k) }

/-- The values of the slots in the order of their indices. -/
def State.slotValues {α : Type} (s : State) (f : Slot → α) : List α := slotIndices.map fun k => f (s.slot k)

/-- Whether some slot has a property. -/
def State.someSlot (s : State) (q : Slot → Bool) : Bool := slotIndices.any fun k => q (s.slot k)

/-- Whether every slot has a property. -/
def State.everySlot (s : State) (q : Slot → Bool) : Bool := slotIndices.all fun k => q (s.slot k)

/-- A slot that is not OFF is said to be transmitting; such slots form the counting set (R87, R102). -/
def Slot.transmitting (x : Slot) : Bool := x.ramp.state != .off

/-- A slot has a good source while its source state is ON_PRIMARY or ON_FALLBACK (R71). -/
def Slot.hasSource (x : Slot) : Bool := x.sel.source != .lost

/-- The path that the source state names, none in LOST (R70). -/
def Source.inUse : Source → Option PathName
  | .onPrimary => some .primary
  | .onFallback => some .fallback
  | .lost => none

/-- The source state in which a path feeds the slot (R70). -/
def sourceOf : PathName → Source
  | .primary => .onPrimary
  | .fallback => .onFallback

/-- The path state of one of the slot's paths (R60). -/
def Slot.path (x : Slot) : PathName → PathState
  | .primary => x.primary
  | .fallback => x.fallback

/-- The slot with one path state replaced. -/
def Slot.putPath (x : Slot) (n : PathName) (v : PathState) : Slot :=
  match n with
  | .primary => { x with primary := v }
  | .fallback => { x with fallback := v }

/-- The path of the slot's record that a name names: absent for the fallback of a slot without one (R9). -/
def SlotRecord.path (r : SlotRecord) : PathName → Option RxPath
  | .primary => some r.primary
  | .fallback => r.fallback

/-- The input tuning word that the datapath uses: the word of the in-use path, or of the last in-use path while LOST (R21). -/
def Slot.inputWordInUse (x : Slot) : Word32 :=
  match x.sel.lastPath with
  | .primary => x.words.primary
  | .fallback => x.words.fallback

/-- The datapath scales a slot's amplitude by the square root of this number over 16000 (0.5, R109). -/
def Slot.scaleNumerator (x : Slot) : Nat := x.grant * x.ramp.step

/-! ## Ports and receivers -/

/-- The state of a control port. -/
def State.port (s : State) (p : Port) : PortState := s.ports.at p

/-- The state with one port changed. -/
def State.modPort (s : State) (p : Port) (f : PortState → PortState) : State :=
  { s with ports := s.ports.put p (f (s.ports.at p)) }

/-- The receiver of a feed link. -/
def State.receiver (s : State) : Feed → Receiver
  | .a => s.feeds.a
  | .b => s.feeds.b

/-- The state with one receiver replaced. -/
def State.putReceiver (s : State) (f : Feed) (r : Receiver) : State :=
  match f with
  | .a => { s with feeds := { s.feeds with a := r } }
  | .b => { s with feeds := { s.feeds with b := r } }

/-! ## Outcome records (R52, R53) -/

/-- The kind of a change (Table 2.1.1). -/
def Change.kind : Change → ChangeKind
  | .assignSlot _ _ => .assignSlot
  | .releaseSlot _ => .releaseSlot
  | .setPower _ _ => .setPower
  | .setThresholds _ _ _ _ _ => .setThresholds
  | .setSlotEnable _ _ => .setSlotEnable
  | .setPlanParams _ _ _ _ _ => .setPlanParams
  | .setTransmit _ => .setTransmit
  | .loadPreset _ => .loadPreset
  | .clearLockout => .clearLockout

/-- The argument that an outcome record carries: the slot, the preset, or absent (R52). -/
def Change.argument : Change → Option Nat
  | .assignSlot k _ => some k.val
  | .releaseSlot k => some k.val
  | .setPower k _ => some k.val
  | .setThresholds k _ _ _ _ => some k.val
  | .setSlotEnable k _ => some k.val
  | .loadPreset n => some n.val
  | .setPlanParams _ _ _ _ _ => none
  | .setTransmit _ => none
  | .clearLockout => none

/-- The outcome record of an entry (R52). -/
def Entry.outcome (e : Entry) (code : OutcomeCode) (generation : Option Word16) : OutcomeRecord where
  ticket := e.ticket
  kind := e.change.kind
  argument := e.change.argument
  code := code
  generation := generation

/-- A record joins the list at its young end; a list of 8 loses its oldest record first (R53). -/
def pushOutcome (xs : List OutcomeRecord) (r : OutcomeRecord) : List OutcomeRecord :=
  (xs ++ [r]).drop (xs.length - 7)

end Sys2Proof.Machine
end

