-- ==== Sys2Proof/Machine/Flags.lean ====
section
/-! DEFINITION. Event latches, attention, the changed-slot set, and the status summary (chapter 10, R148, Table 11.1.4). -/

namespace Sys2Proof.Machine

/-- The nine causes, PROTECTION highest (Table 10.1.1). -/
inductive Cause where
  | protection
  | txState
  | boot
  | feed
  | source
  | outcome
  | plan
  | store
  | peer
  deriving DecidableEq, Repr

/-- The causes in order of priority (Table 10.1.1). -/
def causes : List Cause := [.protection, .txState, .boot, .feed, .source, .outcome, .plan, .store, .peer]

/-- The priority number of a cause, 1..9 (Table 10.1.1). -/
def Cause.number : Cause → Nat
  | .protection => 1
  | .txState => 2
  | .boot => 3
  | .feed => 4
  | .source => 5
  | .outcome => 6
  | .plan => 7
  | .store => 8
  | .peer => 9

/-- Cause k stands at bit k - 1 (Table 11.1.8). -/
def Cause.bit (c : Cause) : BitVec 9 := 1#9 <<< (c.number - 1)

/-- Slot k stands at bit k of the changed-slot set (R174). -/
def slotBit (k : SlotIx) : BitVec 16 := 1#16 <<< k.val

/-- Whether a port's latch of a cause is set (R161). -/
def PortState.latched (q : PortState) (c : Cause) : Bool := q.latches.getLsbD (c.number - 1)

/-- The latches that are set and unmasked (R164). -/
def PortState.unmasked (q : PortState) : BitVec 9 := q.latches &&& ~~~ q.mask

/-- A port has attention while a latch is set and unmasked; its ATTN line is then high (R164). -/
def PortState.attention (q : PortState) : Bool := q.unmasked != 0

/-- The highest-priority cause among the set and unmasked latches (R165). -/
def PortState.highest (q : PortState) : Option Cause :=
  causes.find? fun c => q.unmasked.getLsbD (c.number - 1)

/-- A block sets the latch of a cause on one port; a set latch stays set (R162). -/
def State.latch (s : State) (p : Port) (c : Cause) : State :=
  s.modPort p fun q => { q with latches := q.latches ||| c.bit }

/-- A block sets the latch of a cause on both ports (Table 10.1.1). -/
def State.latchBoth (s : State) (c : Cause) : State := (s.latch .a c).latch .b c

/-- A change of a slot's source state sets SOURCE on both ports and adds the slot to each changed-slot set (R83, R162). -/
def State.latchSource (s : State) (k : SlotIx) : State :=
  let mark := fun (q : PortState) => { q with latches := q.latches ||| Cause.source.bit, changed := q.changed ||| slotBit k }
  (s.modPort .a mark).modPort .b mark

/-- An outcome record is placed in a port's list and sets its OUTCOME latch (R53). -/
def State.placeOutcome (s : State) (p : Port) (r : OutcomeRecord) : State :=
  (s.modPort p fun q => { q with outcomes := pushOutcome q.outcomes r }).latch p .outcome

/-- A SET_EVENT_MASK write: all nine positions together (R163, R175). -/
def PortState.writeMask (q : PortState) (w : Word16) : PortState := { q with mask := w.extractLsb' 0 9 }

/-- The clearing that READ_EVENTS makes: the latch of the highest cause reported, and with SOURCE the changed-slot set (R165). -/
def PortState.clearHighest (q : PortState) : PortState :=
  match q.highest with
  | none => q
  | some c =>
    { q with
      latches := q.latches &&& ~~~ c.bit
      changed := if c = .source then 0 else q.changed }

/-- Whether the Plan Engine is BOOTING, the BOOTING flag of both summaries (R148). -/
def State.booting (s : State) : Bool := s.engine == .booting

/-- The status summary of a port as it stands at the start of a select period (R148). The response level is what stays once
the outgoing frame is removed: one less than the count, or 0 when the frame is EMPTY. -/
def State.summary (s : State) (p : Port) : Summary where
  cmdLevel := (s.port p).cmdQueue.length
  rspLevel := (s.port p).rspQueue.length - 1
  overrun := (s.port p).overrun
  urgentPending := (s.port p).urgent.isSome
  urgentLost := (s.port p).urgentLost
  attn := (s.port p).attention
  peer0 := (s.port (otherPort p)).peer0
  peer1 := (s.port (otherPort p)).peer1
  peerSilent := (s.port (otherPort p)).silent
  booting := s.booting

/-- The two bytes of a status summary (Table 11.1.4). -/
def Summary.word (m : Summary) : Word16 :=
  (BitVec.ofNat 3 m.cmdLevel ++ BitVec.ofNat 3 m.rspLevel ++ BitVec.ofBool m.overrun ++ BitVec.ofBool m.urgentPending ++
    BitVec.ofBool m.urgentLost ++ BitVec.ofBool m.attn ++ BitVec.ofBool m.peer0 ++ BitVec.ofBool m.peer1 ++
    BitVec.ofBool m.peerSilent ++ BitVec.ofBool m.booting ++ 0#2 : BitVec 16)

/-- The code of a response (Table 11.1.2). -/
def ResponseCode.byte : ResponseCode → Byte
  | .ok => 0x01
  | .accepted => 0x02
  | .queueFull => 0x03
  | .malformed => 0x04
  | .unknown => 0x05
  | .storeBusy => 0x06
  | .presetInUse => 0x07

/-- The number of bytes of an outgoing frame (R169). -/
def Outgoing.length (o : Outgoing) : Nat :=
  match o.response with
  | none => 4
  | some r => 4 + r.payload.length

/-- The bytes of an outgoing frame; an EMPTY frame is the header with code and command 0x00 (Table 11.1.2, R169). -/
def Outgoing.bytes (o : Outgoing) : List Byte :=
  match o.response with
  | none => [0x00, 0x00] ++ bytes16 o.summary.word
  | some r => [r.code.byte, r.command] ++ bytes16 o.summary.word ++ r.payload

/-- What a select period of a number of bytes shifts out: the frame, cut where the period is shorter, and 0x00 after it (R169). -/
def Outgoing.shiftedOut (o : Outgoing) (n : Nat) : List Byte :=
  (o.bytes ++ List.replicate (n - o.length) 0x00).take n

end Sys2Proof.Machine
end

