-- ==== Sys2Proof/Machine/Governor.lean ====
section
/-! DEFINITION. The Level Governor (chapter 6). -/

namespace Sys2Proof.Machine

/-- The effective budget (R103). -/
def effectiveBudget (budget : Nat) : Protection → Nat
  | .normal => budget
  | .foldback => budget / 2
  | .trip => 0

/-- The effective budget is formed afresh from the budget and the protection level (R103). -/
def State.formBudget (s : State) : State := { s with bEff := effectiveBudget s.wide.budget s.out.level }

/-- The requested power of a member of the counting set, 0 outside it. -/
def Slot.request (x : Slot) : Nat := if x.transmitting then x.record.power else 0

/-- The demand S: the sum of p over the members of the counting set (R104). -/
def State.demand (s : State) : Nat := (s.slotValues Slot.request).sum

/-- The grant of a slot under an effective budget and a demand (R104): the request where the demand fits, the request scaled
and rounded down where it does not, 0 outside the counting set. -/
def grantOf (bEff demand : Nat) (x : Slot) : Nat :=
  if x.transmitting then (if demand ≤ bEff then x.record.power else x.record.power * bEff / demand) else 0

/-- The radiated share of a grant at a ramp step (R111). -/
def shareOf (grant step : Nat) : Nat := grant * step / 16

/-- The radiated share formed anew from the slot's grant and step (R111). -/
def Slot.formShare (x : Slot) : Slot := { x with share := shareOf x.grant x.ramp.step }

/-- An evaluation: every grant and every share formed from the inputs as they stand (R104, R107, R108, R111). An evaluation
that no input calls for forms the grants there were (R107). -/
def State.govern (s : State) : State :=
  s.mapSlots fun _ x => { x with grant := grantOf s.bEff s.demand x }.formShare

/-- The number of members of the counting set (R112). -/
def State.members (s : State) : Nat := (s.slotValues fun x => if x.transmitting then 1 else 0).sum

/-- The sum of the grants (R112). -/
def State.grantSum (s : State) : Nat := (s.slotValues Slot.grant).sum

/-- The sum of the radiated shares (R112). -/
def State.shareSum (s : State) : Nat := (s.slotValues Slot.share).sum

end Sys2Proof.Machine
end

