-- ==== Sys2Proof/Machine/Ramps.lean ====
section
/-! DEFINITION. The Ramp Controller (chapter 5). -/

namespace Sys2Proof.Machine

/-- The hold set is empty (R88). -/
def State.holdEmpty (s : State) : Bool := !s.out.hold.a && !s.out.hold.b

/-- The shared terms of the on-demand condition: the transmitter is ON_AIR and the hold set is empty (R88, terms 1 and 2). -/
def State.airOpen (s : State) : Bool := s.out.state == .onAir && s.holdEmpty

/-- A slot's own terms of the on-demand condition: assigned and enabled, no retuning mark, a good source or the loss action
PILOT (R88, terms 3 to 5). -/
def Slot.wanted (x : Slot) : Bool :=
  x.record.assigned && x.record.enabled && !x.retuning && (x.hasSource || x.record.lossAction == .pilot)

/-- The on-demand condition D (R88). -/
def State.onDemand (s : State) (k : SlotIx) : Bool := s.airOpen && (s.slot k).wanted

/-- What a ramp does when its D is formed (R90, R91): rs is the ramp_step in force. -/
def Ramp.react (d : Bool) (rs : Nat) (r : Ramp) : Ramp :=
  match d, r.state with
  | true, .off => ⟨.rampUp, 0, some rs⟩
  | true, .rampDown => if r.step < 16 then { r with state := .rampUp } else ⟨.on, 16, none⟩
  | true, .rampUp => r
  | true, .on => r
  | false, .on => ⟨.rampDown, 16, some rs⟩
  | false, .rampUp => if r.step = 0 then .rest else { r with state := .rampDown }
  | false, .off => r
  | false, .rampDown => r

/-- The Ramp Controller re-forms the D of one slot and acts on it (R89). -/
def State.reactSlot (s : State) (k : SlotIx) : State :=
  s.modSlot k fun x => { x with ramp := x.ramp.react (s.onDemand k) s.wide.rampStep }

/-- The Ramp Controller re-forms the D of every slot at one event (R89). -/
def State.reactAll (s : State) : State :=
  s.mapSlots fun k x => { x with ramp := x.ramp.react (s.onDemand k) s.wide.rampStep }

/-- One slot's D re-formed, and the grants with it (R89, R98). -/
def State.reformSlot (s : State) (k : SlotIx) : State := (s.reactSlot k).govern

/-- Every slot's D re-formed, and the grants once (R89, R98). -/
def State.reformAll (s : State) : State := s.reactAll.govern

/-- The move of a step event (R92); rs is the ramp_step in force. Only a ramping slot moves. -/
def Ramp.advance (rs : Nat) (r : Ramp) : Ramp :=
  match r.state with
  | .rampUp => if r.step < 15 then ⟨.rampUp, r.step + 1, some rs⟩ else ⟨.on, 16, none⟩
  | .rampDown => if 1 < r.step then ⟨.rampDown, r.step - 1, some rs⟩ else .rest
  | .off => r
  | .on => r

/-- Every slot that is not OFF is forced to OFF at step 0 with its step timer stopped; slots already OFF are left as they
were (R96). -/
def State.forceOff (s : State) : State :=
  (s.mapSlots fun _ x => if x.transmitting then { x with ramp := .rest } else x).govern

/-- Every slot is OFF. -/
def State.allOff (s : State) : Bool := s.everySlot fun x => !x.transmitting

end Sys2Proof.Machine
end

