-- ==== Sys2Proof/Machine/Transmitter.lean ====
section
/-! DEFINITION. The Output Controller (chapter 7), but for trips, which end drains (Sys2Proof/Machine/Trips.lean). -/

namespace Sys2Proof.Machine

/-- PA_EN is on exactly in WARMUP, ON_AIR and CLOSING (R116). -/
def TxState.amplifierOn : TxState → Bool
  | .warmUp => true
  | .onAir => true
  | .closing _ => true
  | .offAir => false
  | .standby => false
  | .tripped => false
  | .lockout => false

/-- The warm-up time of a warm-up code in ms (Table 1.2.2). -/
def warmUpMs (code : Nat) : Nat :=
  if code = 0 then 500 else if code = 1 then 1000 else if code = 2 then 2000 else if code = 3 then 4000 else 8000

/-- The state that a closing target names (R115). -/
def Target.state : Target → TxState
  | .standby => .standby
  | .offAir => .offAir

/-- A change of transmitter state: PA_EN follows the state (R116), the warm-up timer starts at an entry into WARMUP and stops
at any departure (R119), the quiet timer stops at a departure from ON_AIR (R121), and TX_STATE is set on both ports (R132). -/
def State.setTx (s : State) (t : TxState) : State :=
  State.latchBoth
    { s with
      out :=
        { s.out with
          state := t
          paEn := t.amplifierOn
          warmUp := if t = .warmUp then some (warmUpMs s.wide.warmUpCode) else none
          quiet := if t = .onAir then s.out.quiet else none } }
    .txState

/-- The quiet condition Q (R122). -/
def State.quietCondition (s : State) : Bool :=
  s.out.state == .onAir && s.wide.quietTime != 0 && s.holdEmpty &&
    !s.someSlot fun x => x.record.assigned && x.record.enabled && x.hasSource

/-- Q formed afresh: the quiet timer starts at 0 where Q has become true, runs on where it holds, and stops where it does not
(R122). -/
def State.formQuiet (s : State) : State :=
  { s with out := { s.out with quiet := if s.quietCondition then some (s.out.quiet.getD 0) else none } }

/-- An entry into WARMUP, or into TRIPPED, unrecorded, under TRIP (R119, R120). -/
def State.enterWarmUp (s : State) : State :=
  if s.out.level = .trip then s.setTx .tripped else s.setTx .warmUp

/-- An entry into ON_AIR: every slot's D is re-formed, and Q (R121). -/
def State.enterOnAir (s : State) : State := (s.setTx .onAir).reformAll.formQuiet

/-- CLOSING is left for its target at the event at which every slot is OFF (R124). -/
def State.closeIfOff (s : State) : State :=
  match s.out.state with
  | .closing t => if s.allOff then s.setTx t.state else s
  | _ => s

/-- An entry into CLOSING: every slot's D becomes false; with every slot OFF the closing completes at once (R124). -/
def State.enterClosing (s : State) (t : Target) : State := (s.setTx (.closing t)).reformAll.closeIfOff

/-- tx_enable has become yes (R118). -/
def State.txEnabled (s : State) : State :=
  match s.out.state with
  | .offAir => s.enterWarmUp
  | .closing .offAir => s.enterOnAir
  | _ => s

/-- tx_enable has become no (R118). -/
def State.txDisabled (s : State) : State :=
  match s.out.state with
  | .warmUp => s.setTx .offAir
  | .onAir => s.enterClosing .offAir
  | .closing .standby => s.setTx (.closing .offAir)
  | .standby => s.setTx .offAir
  | _ => s

/-- A wake (R126). -/
def State.wake (s : State) : State :=
  match s.out.state with
  | .standby => s.enterWarmUp
  | .closing .standby => s.enterOnAir
  | _ => s

/-- The quiet timer has expired: the transmitter, which is ON_AIR, enters CLOSING with target STANDBY (R123). -/
def State.quietExpired (s : State) : State :=
  if s.out.state = .onAir then s.enterClosing .standby else s

/-- A quiet time in force is measured against the timer: Q is formed, and a timer that has already reached it expires at
this event (R123). -/
def State.measureQuiet (s : State) : State :=
  match s.formQuiet.out.quiet with
  | some elapsed => if s.wide.quietTime * 1000 ≤ elapsed then s.formQuiet.quietExpired else s.formQuiet
  | none => s.formQuiet

/-- A slot that is assigned, enabled and marked wakes (R126). -/
def Slot.waking (x : Slot) : Bool := x.record.assigned && x.record.enabled && x.record.wakes

/-- A port joins or leaves the hold set. The set acts only where it becomes empty or non-empty (R127, R128). -/
def State.setHold (s : State) (p : Port) (held : Bool) : State :=
  let t := { s with out := { s.out with hold := s.out.hold.put p held } }
  if t.holdEmpty = s.holdEmpty then t else t.reformAll.formQuiet

end Sys2Proof.Machine
end

