-- ==== Sys2Proof/Machine/Selection.lean ====
section
/-! DEFINITION. The Channel Monitor's judgement (chapter 3) and the Path Selector (chapter 4). -/

namespace Sys2Proof.Machine

/-- The preferred path (R71): the primary while it is GOOD, otherwise the fallback where the record has one and it is GOOD. -/
def Slot.preferred (x : Slot) : Option PathName :=
  if x.primary.quality = .good then some .primary
  else if x.record.fallback.isSome && x.fallback.quality == .good then some .fallback
  else none

/-- A hold-off timer as a start leaves it: the plan's hold-off in ms, and not started when that is 0 (R79). -/
def startHoldOff (holdOff : Nat) : Option Nat := if holdOff = 0 then none else some (holdOff * 1000)

/-- A path put in use: the source and the last in-use path follow it, the mark clears, the hold-off starts (R72, R74 to R76,
R80). -/
def Selector.take (x : Selector) (n : PathName) (holdOff : Nat) : Selector :=
  { x with source := sourceOf n, lastPath := n, holdOff := startHoldOff holdOff, switchPending := false }

/-- The source lost: the last in-use path is kept, the timer stops, the mark clears (R73). -/
def Selector.lose (x : Selector) : Selector := { x with source := .lost, holdOff := none, switchPending := false }

/-- The decision at a notice (Table 4.3.1, R72 to R78): `pref` is the preferred path after the event, and `forced` says that the
in-use path is forced BAD by feed unlock. A level-driven switch waits while the timer runs, by R74 and Table 4.3.1, also where the
plan's hold-off has become 0 since the timer's start, of which R79 and R6 say that every switch is taken at its notice: DESIGN
CHOICE, notes/assumptions/24.md. -/
def Selector.decide (x : Selector) (pref : Option PathName) (forced : Bool) (holdOff : Nat) : Selector :=
  match x.source.inUse, pref with
  | none, none => x
  | none, some n => x.take n holdOff
  | some _, none => x.lose
  | some u, some n =>
    if u = n then { x with switchPending := false }
    else if forced || x.holdOff.isNone then x.take n holdOff
    else { x with switchPending := true }

/-- The content of a slot: PILOT while LOST with the loss action PILOT (R84). -/
def contentOf (source : Source) (action : LossAction) : Content :=
  if source = .lost ∧ action = .pilot then .pilot else .program

/-- The slot with a new selection, its content set from it (R84). -/
def Slot.select (x : Slot) (v : Selector) : Slot :=
  { x with sel := { v with content := contentOf v.source x.record.lossAction } }

/-- What the Output Controller and the Ramp Controller do at a gain or loss of source by slot k: D and Q are formed anew, and
a gain by a waking slot is a wake (R83, R122, R126). -/
def State.sourceMoved (s : State) (k : SlotIx) : State :=
  let t := (s.reformSlot k).formQuiet
  if (s.slot k).hasSource && (s.slot k).waking then t.wake else t

/-- A new selection for slot k, handed on (R83, R84): a change of source state sets SOURCE and the changed-slot sets; a gain or
loss of the source moves D, Q and perhaps the transmitter. -/
def State.applySelection (s : State) (k : SlotIx) (v : Selector) : State :=
  let x := s.slot k
  let t := s.putSlot k (x.select v)
  if v.source = x.sel.source then t
  else
    let t := t.latchSource k
    if (v.source == .lost) != (x.sel.source == .lost) then t.sourceMoved k else t

/-- The Path Selector acts on a notice for slot k; `forced` says that the in-use path is forced BAD by feed unlock. -/
def State.notice (s : State) (k : SlotIx) (forced : Bool) : State :=
  s.applySelection k ((s.slot k).sel.decide (s.slot k).preferred forced s.wide.holdOff)

/-- The quality machine for one measurement at level L (Table 3.2.1, R63, R64). -/
def PathState.judge (r : SlotRecord) (level : Int) (v : PathState) : PathState :=
  match v.quality with
  | .bad =>
    if r.tLoss + r.hyst ≤ level then
      if v.dwell + 1 < r.restoreDwell then ⟨level, .bad, v.dwell + 1⟩ else ⟨level, .good, 0⟩
    else ⟨level, .bad, 0⟩
  | .good =>
    if level < r.tLoss then
      if v.dwell + 1 < r.lossDwell then ⟨level, .good, v.dwell + 1⟩ else ⟨level, .bad, 0⟩
    else ⟨level, .good, 0⟩

/-- The level that a measurement reads: the delivered level clamped to -128..0, or -128 while the feed's receiver is in SEARCH
(R62). -/
def State.measuredLevel (s : State) (f : Feed) (delivered : Int) : Int :=
  if (s.receiver f).link = .locked then max (-128) (min 0 delivered) else -128

/-- One measurement on one path of slot k (R61 to R64): a path not present is not measured; a quality change is handed to the
Path Selector (R66). -/
def State.measure (s : State) (k : SlotIx) (n : PathName) (delivered : Int) : State :=
  let x := s.slot k
  match x.record.path n with
  | none => s
  | some path =>
    if x.record.assigned then
      let v := (x.path n).judge x.record (s.measuredLevel path.feed delivered)
      let t := s.putSlot k (x.putPath n v)
      if v.quality = (x.path n).quality then t else t.notice k false
    else s

/-- The two measurements of one slot at one interval, in the order in which they arrive (R61, R81). -/
def State.measureSlot (s : State) (k : SlotIx) (d : Delivered) : State :=
  if d.fallbackFirst then (s.measure k .fallback d.fallback).measure k .primary d.primary
  else (s.measure k .primary d.primary).measure k .fallback d.fallback

/-- Whether a path of a slot is on a feed: a path of an assigned slot whose record names that feed (R58, R65). -/
def Slot.pathOn (x : Slot) (n : PathName) (f : Feed) : Bool :=
  x.record.assigned &&
    match x.record.path n with
    | some path => path.feed == f
    | none => false

/-- The forced BAD of every path of slot k on feed f, and its notices, acted on together (R65, R76, R77). -/
def State.unlockSlot (s : State) (f : Feed) (k : SlotIx) : State :=
  let x := s.slot k
  let onP := x.pathOn .primary f
  let onF := x.pathOn .fallback f
  if onP || onF then
    let x1 := if onP then x.putPath .primary .rest else x
    let x2 := if onF then x1.putPath .fallback .rest else x1
    let forced :=
      match x.sel.source.inUse with
      | some .primary => onP
      | some .fallback => onF
      | none => false
    (s.putSlot k x2).notice k forced
  else s

end Sys2Proof.Machine
end

