-- ==== Sys2Proof/Machine/FeedEvents.lean ====
section
/-! DEFINITION. Marker events and the monitor interval (chapter 3). -/

namespace Sys2Proof.Machine

/-- A receiver after a good marker (Table 3.1.1). -/
def Receiver.goodMarker (r : Receiver) : Receiver :=
  match r.link with
  | .search => if r.good < 7 then { r with good := r.good + 1 } else ⟨.locked, 0, 0⟩
  | .locked => { r with miss := 0 }

/-- A receiver after a bad or missing marker (Table 3.1.1). -/
def Receiver.badMarker (r : Receiver) : Receiver :=
  match r.link with
  | .search => { r with good := 0 }
  | .locked => if r.miss < 3 then { r with miss := r.miss + 1 } else ⟨.search, 0, 0⟩

/-- A receiver takes a new state; a lock change sets FEED on both ports (R58). -/
def State.moveReceiver (s : State) (f : Feed) (r : Receiver) : State :=
  let t := s.putReceiver f r
  if r.link = (s.receiver f).link then t else t.latchBoth .feed

/-- A sound marker at a marker position (R56, R57). Entering LOCKED moves no path at the event itself (R58). -/
def State.soundMarker (s : State) (f : Feed) : State := s.moveReceiver f (s.receiver f).goodMarker

/-- A bad or missing marker (R55 treats them alike): on entering SEARCH every path on the feed of every assigned slot is forced
BAD, and its notice is handed to the Path Selector (R58, R65). -/
def State.lostMarker (s : State) (f : Feed) : State :=
  let r := (s.receiver f).badMarker
  let t := s.moveReceiver f r
  if r.link = (s.receiver f).link then t else slotIndices.foldl (fun u k => u.unlockSlot f k) t

/-- A monitor interval: one measurement for each path of every assigned slot (R61), and the next interval 10 ms away. -/
def State.monitor (s : State) (levels : Levels) : State :=
  slotIndices.foldl (fun u k => u.measureSlot k levels[k.val]) { s with monitorIn := 10 }

/-- GOOD_MARKER (R56, R57). -/
def execGoodMarker (f : Feed) (s : State) : Host.Outcome State Fault Refusal := .next (s.soundMarker f)

/-- BAD_MARKER (R56, R57). -/
def execBadMarker (f : Feed) (s : State) : Host.Outcome State Fault Refusal := .next (s.lostMarker f)

/-- MISSING_MARKER (R55 to R57). -/
def execMissingMarker (f : Feed) (s : State) : Host.Outcome State Fault Refusal := .next (s.lostMarker f)

/-- MONITOR_INTERVAL (R61). -/
def execMonitorInterval (levels : Levels) (s : State) : Host.Outcome State Fault Refusal := .next (s.monitor levels)

end Sys2Proof.Machine
end

