-- ==== Sys2Proof/Machine/Operands.lean ====
section
/-! DEFINITION. The operand forms: command codes and frame forms (Table 11.1.3, R168, R170), the arguments of a change
(Tables 11.1.5 to 11.1.7, R171), and the forms of the urgent frames (R176, R177). -/

namespace Sys2Proof.Machine

/-- The commands of Table 11.1.3. -/
inductive Command where
  | nop
  | submitChange
  | readSlot
  | readPlan
  | readTransmitter
  | readFeeds
  | readOutcomes
  | readEvents
  | readStore
  | setEventMask
  | setPeerFlags
  | setSilence
  | scanRange
  | scanNext
  | savePreset
  | erasePreset
  | setBoot
  | holdOutput
  | releaseOutput
  | purgeChanges
  | portClear
  deriving DecidableEq, Repr

/-- The command that a code names (Table 11.1.3). -/
def commandOfCode (code : Byte) : Option Command :=
  if code = 0x00 then some .nop
  else if code = 0x10 then some .submitChange
  else if code = 0x20 then some .readSlot
  else if code = 0x21 then some .readPlan
  else if code = 0x22 then some .readTransmitter
  else if code = 0x23 then some .readFeeds
  else if code = 0x24 then some .readOutcomes
  else if code = 0x25 then some .readEvents
  else if code = 0x26 then some .readStore
  else if code = 0x30 then some .setEventMask
  else if code = 0x31 then some .setPeerFlags
  else if code = 0x32 then some .setSilence
  else if code = 0x33 then some .scanRange
  else if code = 0x34 then some .scanNext
  else if code = 0x40 then some .savePreset
  else if code = 0x41 then some .erasePreset
  else if code = 0x42 then some .setBoot
  else if code = 0x80 then some .holdOutput
  else if code = 0x81 then some .releaseOutput
  else if code = 0x82 then some .purgeChanges
  else if code = 0x83 then some .portClear
  else none

/-- The code of a command (Table 11.1.3). -/
def codeOf : Command → Byte
  | .nop => 0x00
  | .submitChange => 0x10
  | .readSlot => 0x20
  | .readPlan => 0x21
  | .readTransmitter => 0x22
  | .readFeeds => 0x23
  | .readOutcomes => 0x24
  | .readEvents => 0x25
  | .readStore => 0x26
  | .setEventMask => 0x30
  | .setPeerFlags => 0x31
  | .setSilence => 0x32
  | .scanRange => 0x33
  | .scanNext => 0x34
  | .savePreset => 0x40
  | .erasePreset => 0x41
  | .setBoot => 0x42
  | .holdOutput => 0x80
  | .releaseOutput => 0x81
  | .purgeChanges => 0x82
  | .portClear => 0x83

/-- The frame that a select period delivers, from its first 42 bytes: bytes past the declared payload are filler (R149, R168). -/
def frameOfBytes (shifted : List Byte) : Frame where
  code := byteAt shifted 0
  body := ⟨byteAt shifted 1, ((shifted.take 42).drop 2).take (byteAt shifted 1).toNat⟩

/-- The part of a body that a frame keeps: no byte past the declared payload, none past the 42nd of the frame (R149, R168). -/
def keptBody (b : Body) : Body := { b with payload := (b.payload.take b.declared.toNat).take 40 }

/-- A frame was delivered short when fewer payload bytes came than it declares (R168). -/
def deliveredShort (b : Body) : Bool := decide (b.payload.length < b.declared.toNat)

/-- The slot index that a byte carries, none above 15 (R170). -/
def slotOfByte (b : Byte) : Option SlotIx := if h : b.toNat < 16 then some ⟨b.toNat, h⟩ else none

/-- The preset number that a byte carries, none above 3 (R170). -/
def presetOfByte (b : Byte) : Option PresetIx := if h : b.toNat < 4 then some ⟨b.toNat, h⟩ else none

/-- The boot selection that a byte carries: 0..3, or 0xFF for NONE (Table 11.1.3). -/
def bootOfByte (b : Byte) : Option (Option PresetIx) :=
  if b = absentByte then some none else (presetOfByte b).map some

/-- The selector that a byte carries (Table 11.1.3). -/
def selectorOfByte (b : Byte) : Option ClearSelector :=
  if b = 0x01 then some .commands
  else if b = 0x02 then some .responses
  else if b = 0x03 then some .both
  else none

/-- The urgent command that a frame is, where it has the form of its code (Table 11.1.3, R149, R177). -/
def urgentOfFrame (f : Frame) : Option Urgent :=
  match commandOfCode f.code with
  | some .holdOutput => if f.body.declared = 0 then some .holdOutput else none
  | some .releaseOutput => if f.body.declared = 0 then some .releaseOutput else none
  | some .purgeChanges => if f.body.declared = 0 then some .purgeChanges else none
  | some .portClear =>
    if f.body.declared = 1 && !deliveredShort f.body then (selectorOfByte (byteAt f.body.payload 0)).map .portClear
    else none
  | _ => none

/-- The declared length that a queued command must have; SUBMIT_CHANGE is judged by the Change Queue, and an urgent code in
the queue has a wrong form (Table 11.1.3, R170). -/
def payloadLength : Command → Option Nat
  | .readSlot => some 1
  | .readPlan => some 0
  | .readTransmitter => some 0
  | .readFeeds => some 0
  | .readOutcomes => some 0
  | .readEvents => some 0
  | .readStore => some 0
  | .setEventMask => some 2
  | .setPeerFlags => some 1
  | .setSilence => some 1
  | .scanRange => some 2
  | .scanNext => some 0
  | .savePreset => some 1
  | .erasePreset => some 1
  | .setBoot => some 1
  | .nop => none
  | .submitChange => none
  | .holdOutput => none
  | .releaseOutput => none
  | .purgeChanges => none
  | .portClear => none

/-- The declared length fits the command (R170). -/
def lengthFits (c : Command) (b : Body) : Bool := !deliveredShort b && payloadLength c == some b.declared.toNat

/-! ## The arguments of a change (R171) -/

/-- The feed that a byte carries (Table 11.1.5). -/
def feedOfByte (b : Byte) : Option Feed := if b = 0 then some .a else if b = 1 then some .b else none

/-- The loss action that a byte carries (Table 11.1.5). -/
def lossActionOfByte (b : Byte) : Option LossAction := if b = 0 then some .mute else if b = 1 then some .pilot else none

/-- The fallback path of a submitted record: absent where flags bit 1 is clear, and then bytes 7 to 11 are not examined (R171).
The outer none is a structural fault. -/
def fallbackOfBytes (xs : List Byte) : Option (Option RxPath) :=
  if (byteAt xs 0).getLsbD 1 then (feedOfByte (byteAt xs 7)).map fun f => some ⟨f, (word32At xs 8).toInt⟩ else some none

/-- The slot record of an ASSIGN_SLOT, assigned by its kind (Table 11.1.5, R171); none on a structural fault (R25). -/
def recordOfBytes (xs : List Byte) : Option SlotRecord :=
  match lossActionOfByte (byteAt xs 1), feedOfByte (byteAt xs 2), fallbackOfBytes xs with
  | some action, some feed, some fallback =>
    some
      { assigned := true
        enabled := (byteAt xs 0).getLsbD 0
        primary := ⟨feed, (word32At xs 3).toInt⟩
        fallback := fallback
        output := (word32At xs 12).toInt
        width := (byteAt xs 16).toNat
        power := (word16At xs 17).toNat
        tLoss := (byteAt xs 19).toInt
        hyst := (byteAt xs 20).toNat
        lossDwell := (byteAt xs 21).toNat
        restoreDwell := (byteAt xs 22).toNat
        lossAction := action
        wakes := (byteAt xs 0).getLsbD 2 }
  | _, _, _ => none

/-- The kind that a code names (Table 11.1.6). -/
def kindOfByte (b : Byte) : Option ChangeKind :=
  if b = 1 then some .assignSlot
  else if b = 2 then some .releaseSlot
  else if b = 3 then some .setPower
  else if b = 4 then some .setThresholds
  else if b = 5 then some .setSlotEnable
  else if b = 6 then some .setPlanParams
  else if b = 7 then some .setTransmit
  else if b = 8 then some .loadPreset
  else if b = 9 then some .clearLockout
  else none

/-- The code of a kind (Table 11.1.6). -/
def kindByte : ChangeKind → Byte
  | .assignSlot => 1
  | .releaseSlot => 2
  | .setPower => 3
  | .setThresholds => 4
  | .setSlotEnable => 5
  | .setPlanParams => 6
  | .setTransmit => 7
  | .loadPreset => 8
  | .clearLockout => 9

/-- The number of argument bytes of a kind (Table 11.1.7). -/
def argumentBytes : ChangeKind → Nat
  | .assignSlot => 24
  | .releaseSlot => 1
  | .setPower => 3
  | .setThresholds => 5
  | .setSlotEnable => 2
  | .setPlanParams => 7
  | .setTransmit => 1
  | .loadPreset => 1
  | .clearLockout => 0

/-- The change that argument bytes carry (Table 11.1.7); none on a structural fault (R25, R171). -/
def changeOfBytes (kind : ChangeKind) (args : List Byte) : Option Change :=
  match kind with
  | .assignSlot =>
    match slotOfByte (byteAt args 0), recordOfBytes (args.drop 1) with
    | some k, some r => some (.assignSlot k r)
    | _, _ => none
  | .releaseSlot => (slotOfByte (byteAt args 0)).map .releaseSlot
  | .setPower => (slotOfByte (byteAt args 0)).map fun k => .setPower k (word16At args 1).toNat
  | .setThresholds =>
    (slotOfByte (byteAt args 0)).map fun k =>
      .setThresholds k (byteAt args 1).toInt (byteAt args 2).toNat (byteAt args 3).toNat (byteAt args 4).toNat
  | .setSlotEnable => (slotOfByte (byteAt args 0)).map fun k => .setSlotEnable k (byteAt args 1 != 0)
  | .setPlanParams =>
    some (.setPlanParams (word16At args 0).toNat (byteAt args 2).toNat (byteAt args 3).toNat (word16At args 4).toNat
      (byteAt args 6).toNat)
  | .setTransmit => some (.setTransmit (byteAt args 0 != 0))
  | .loadPreset => (presetOfByte (byteAt args 0)).map .loadPreset
  | .clearLockout => some .clearLockout

/-- A change as submitted: its class, its kind with arguments, and its optional expected generation. -/
structure Submitted where
  cls : ChangeClass
  change : Change
  expected : Option Word16
  deriving DecidableEq, Repr

/-- The class that the class byte names: bit 0 set EXPEDITED (Table 11.1.6). -/
def classOfByte (b : Byte) : ChangeClass := if b.getLsbD 0 then .expedited else .normal

/-- The change of a SUBMIT_CHANGE payload; none where it is not structurally sound (R25, R171). -/
def submittedOfPayload (payload : List Byte) : Option Submitted :=
  match kindOfByte (byteAt payload 0) with
  | none => none
  | some kind =>
    let n := argumentBytes kind
    if payload.length = n + 2 then
      (changeOfBytes kind (payload.drop 2)).map fun c => ⟨classOfByte (byteAt payload 1), c, none⟩
    else if payload.length = n + 4 then
      (changeOfBytes kind (payload.drop 2)).map fun c =>
        ⟨classOfByte (byteAt payload 1), c, some (word16At payload (n + 2))⟩
    else none

end Sys2Proof.Machine
end

