-- ==== Sys2Proof/Machine/Plan.lean ====
section
/-! DEFINITION. The Channel Plan (chapter 1): clamping, the validity tests, the tuning words, the plan image. -/

namespace Sys2Proof.Machine

/-! ## Clamping (R38, Tables 1.2.1 and 1.3.1) -/

/-- A number set to the nearer bound of its range. -/
def clampNat (lo hi n : Nat) : Nat := max lo (min hi n)

/-- A signed number set to the nearer bound of its range. -/
def clampInt (lo hi n : Int) : Int := max lo (min hi n)

/-- The quiet time: 0 stays, 1..9 becomes 10, above 600 becomes 600 (R6). -/
def clampQuiet (n : Nat) : Nat := if n = 0 then 0 else clampNat 10 600 n

/-- The clamped fields of a slot record; offsets and the width code are left as submitted (R38). -/
def clampRecord (r : SlotRecord) : SlotRecord :=
  { r with
    power := min 1000 r.power
    tLoss := clampInt (-90) (-20) r.tLoss
    hyst := clampNat 1 15 r.hyst
    lossDwell := clampNat 1 15 r.lossDwell
    restoreDwell := clampNat 1 63 r.restoreDwell }

/-- The clamped arguments of a change (R38). -/
def clampChange : Change → Change
  | .assignSlot k r => .assignSlot k (clampRecord r)
  | .releaseSlot k => .releaseSlot k
  | .setPower k p => .setPower k (min 1000 p)
  | .setThresholds k t h l r =>
    .setThresholds k (clampInt (-90) (-20) t) (clampNat 1 15 h) (clampNat 1 15 l) (clampNat 1 63 r)
  | .setSlotEnable k e => .setSlotEnable k e
  | .setPlanParams b rs wc q ho =>
    .setPlanParams (clampNat 100 1000 b) (clampNat 1 63 rs) (min 4 wc) (clampQuiet q) (min 60 ho)
  | .setTransmit e => .setTransmit e
  | .loadPreset n => .loadPreset n
  | .clearLockout => .clearLockout

/-! ## Plan validity (section 1.4) -/

/-- The width codes are 0..3 (R10). -/
def widthKnown (code : Nat) : Bool := decide (code ≤ 3)

/-- The half-width of a width code in kHz (Table 1.3.3). -/
def halfWidth (code : Nat) : Int :=
  if code = 0 then 750 else if code = 1 then 3000 else if code = 2 then 3500 else 4000

/-- The interval of a channel at an offset lies within -40000..+40000 kHz, both ends included (R14). -/
def inBand (offset half : Int) : Bool := decide (-40000 ≤ offset - half) && decide (offset + half ≤ 40000)

/-- The band test: the primary input interval, the fallback input interval where there is one, the output interval (R14). -/
def bandTest (r : SlotRecord) : Bool :=
  inBand r.primary.offset (halfWidth r.width) &&
    (match r.fallback with
    | some f => inBand f.offset (halfWidth r.width)
    | none => true) &&
    inBand r.output (halfWidth r.width)

/-- Two records conflict when their output offsets are closer than half the sum of their widths (R15). -/
def conflict (r q : SlotRecord) : Bool :=
  decide ((r.output - q.output).natAbs < (halfWidth r.width + halfWidth q.width).natAbs)

/-- The conflict test of a new record for slot k: no assigned slot other than k conflicts with it (R15). -/
def conflictTest (k : SlotIx) (r : SlotRecord) (s : State) : Bool :=
  slotIndices.all fun j => j == k || !(s.slot j).record.assigned || !conflict r (s.slot j).record

/-! ## Tuning words (section 1.6) -/

/-- The product of an offset and 16777216 / 375, rounded to the nearest integer with ties away from zero (R19, R20). -/
def roundedWord (k : Int) : Int :=
  if 0 ≤ k then (2 * (k * 16777216) + 375) / 750 else -((2 * (-k * 16777216) + 375) / 750)

/-- A tuning word for a shift of k kHz, modulo 2^32 (R19). -/
def tuningWord (k : Int) : Word32 := BitVec.ofInt 32 (roundedWord k)

/-- The three tuning words of a record: all 0 for an EMPTY slot; the input words carry the opposite sign to the offset (R19). -/
def wordsOf (r : SlotRecord) : TuningWords :=
  if r.assigned then
    { out := tuningWord r.output
      primary := tuningWord (-r.primary.offset)
      fallback :=
        match r.fallback with
        | some f => tuningWord (-f.offset)
        | none => 0 }
  else ⟨0, 0, 0⟩

/-! ## The plan image (R134) -/

/-- The plan as a preset holds it: no generation, no tuning word, no live state. -/
def State.planImage (s : State) : PlanImage where
  wide := s.wide
  records := Vector.ofFn fun k => (s.slot k).record

end Sys2Proof.Machine
end

