-- ==== Sys2Proof/Machine/StoreOps.lean ====
section
/-! DEFINITION. The Preset Store (chapter 8): its phases, its answers, and the starts and completions of its operations. -/

namespace Sys2Proof.Machine

/-- The store's phase (R134). -/
def Activity.phase : Activity → Phase
  | .idle => .idle
  | .savingErase _ _ _ => .erasing
  | .savingProgram _ _ _ => .programming
  | .erasing _ _ => .erasing
  | .writingBoot _ _ => .writingBoot
  | .reading _ => .reading

/-- The preset that a save, an erase or a read names; a boot selection neither reads nor writes a preset (R50). -/
def Activity.preset : Activity → Option PresetIx
  | .savingErase n _ _ => some n
  | .savingProgram n _ _ => some n
  | .erasing n _ => some n
  | .reading n => some n
  | .idle => none
  | .writingBoot _ _ => none

/-- A preset's state is VALID. -/
def Preset.isValid : Preset → Bool
  | .valid _ => true
  | .empty => false
  | .corrupt => false

/-- The preset at a number. -/
def Store.preset (st : Store) (n : PresetIx) : Preset := st.presets[n.val]

/-- The store with one preset replaced. -/
def Store.putPreset (st : Store) (n : PresetIx) (v : Preset) : Store := { st with presets := st.presets.set n.val v }

/-- The time of an ERASING phase in ms (Table 8.2.1). -/
def erasingMs : Nat := 40

/-- The time of a PROGRAMMING phase in ms (Table 8.2.1). -/
def programmingMs : Nat := 20

/-- The time of a WRITING_BOOT phase in ms (Table 8.2.1). -/
def writingBootMs : Nat := 10

/-- The time of a READING phase in ms (Table 8.2.1). -/
def readingMs : Nat := 5

/-- The store enters a phase with its operation. -/
def Store.begin (st : Store) (a : Activity) (ms : Nat) : Store := { st with activity := a, phaseLeft := ms }

/-- The Plan Engine asks for the read of preset n: it starts at once in IDLE, and waits otherwise (R48, R139). -/
def Store.askRead (st : Store) (n : PresetIx) : Store :=
  if st.activity = .idle then st.begin (.reading n) readingMs else { st with pendingRead := some n }

/-- The operation in progress ends: a pending read starts at that event, and the phase is IDLE otherwise (R139, R140). The
pending read stays until the end of READING, where R139 makes it absent (notes/assumptions/23.md). -/
def Store.finish (st : Store) : Store :=
  match st.pendingRead with
  | some n => st.begin (.reading n) readingMs
  | none => st.begin .idle 0

/-- A preset is in use from the taking of a LOAD_PRESET that passes its tests to the completion of its read (R50). -/
def Engine.usesPreset (e : Engine) (n : PresetIx) : Bool :=
  match e with
  | .draining x => x.change == .loadPreset n
  | .loading x => x.change == .loadPreset n
  | .booting => false
  | .idle => false

/-- The first phase of an operation that a port starts, and its time (Table 8.2.1); a save takes its snapshot (R137). -/
def PortOp.firstPhase (op : PortOp) (snapshot : PlanImage) (p : Port) : Activity × Nat :=
  match op with
  | .save n => (.savingErase n snapshot p, erasingMs)
  | .erase n => (.erasing n p, erasingMs)
  | .writeBoot sel => (.writingBoot sel p, writingBootMs)

/-- Whether an operation names a preset in use (R136, test 1). A SET_BOOT names none in this sense. -/
def PortOp.inUse (op : PortOp) (e : Engine) : Bool :=
  match op with
  | .save n => e.usesPreset n
  | .erase n => e.usesPreset n
  | .writeBoot _ => false

/-- The store's answer to a command, by the first of the tests of R136 that applies. No operation starts between the beginning
and the end of a device reset, at which the store is IDLE (R143, R146): STORE_BUSY in that span is DESIGN CHOICE,
notes/assumptions/7.md. A save or erase of the pending read's own preset that arrives with the completion of the operation is
answered PRESET_IN_USE, by R136 and R50, where R139 says STORE_BUSY: DESIGN CHOICE, notes/assumptions/26.md. -/
def State.storeAnswer (s : State) (op : PortOp) : ResponseCode :=
  if op.inUse s.engine then .presetInUse
  else if s.store.activity = .idle ∧ s.resetHeld = false then .ok
  else .storeBusy

/-- A store command of a port: the operation starts where the answer is OK, and nothing moves otherwise (R136). -/
def State.storeCommand (s : State) (p : Port) (op : PortOp) : ResponseCode × State :=
  match s.storeAnswer op with
  | .ok =>
    let phase := op.firstPhase s.planImage p
    (.ok, { s with store := s.store.begin phase.1 phase.2 })
  | code => (code, s)

/-- An operation started by a port completes: the last result is recorded, the starting port's STORE latch is set, and the
store enters IDLE, or READING where a read is pending (R140). -/
def State.completeOperation (s : State) (st : Store) (op : PortOp) (p : Port) (done : Bool) : State :=
  State.latch { s with store := { st with lastResult := some ⟨op, p, done⟩ }.finish } p .store

/-- The non-volatile state that a device reset leaves, and every volatile item of the store as after a device reset (R134,
Table 8.4.1). -/
def Store.cut (st : Store) : Store :=
  let nv :=
    match st.activity with
    | .savingErase n _ _ => st.putPreset n .corrupt
    | .savingProgram n _ _ => st.putPreset n .corrupt
    | .erasing n _ => st.putPreset n .corrupt
    | .writingBoot _ _ => { st with boot := none }
    | .reading _ => st
    | .idle => st
  { Store.factory with presets := nv.presets, boot := nv.boot }

end Sys2Proof.Machine
end

