-- ==== Sys2Proof/Machine/Engine.lean ====
section
/-! DEFINITION. The Plan Engine (chapter 2): applications, drains, takings, and the completion of a preset read. -/

namespace Sys2Proof.Machine

/-! ## Applications -/

/-- A slot as the application of a record leaves it, for an assigned record and for the rest record alike: words formed, both
paths BAD at level -128, source LOST, mark clear, content by the loss action; the ramp, the grant and the share are not
altered (R46, R67, R85, R86, R100). -/
def Slot.start (x : Slot) (r : SlotRecord) : Slot :=
  { x with
    record := r
    words := wordsOf r
    primary := .rest
    fallback := .rest
    sel := { Selector.rest with content := contentOf .lost r.lossAction }
    retuning := false }

/-- A record is applied to slot k: the slot starts afresh, a source it had is lost (R85, R86), and D and Q are formed anew
from what the event leaves (R89, R122). -/
def State.applyRecord (s : State) (k : SlotIx) (r : SlotRecord) : State :=
  let t := s.modSlot k fun x => x.start r
  let t := if (s.slot k).hasSource then t.latchSource k else t
  (t.reformSlot k).formQuiet

/-- A change is applied: the generation rises by one, the APPLIED record with the new generation goes to the origin port with
its OUTCOME latch, and the other port's PLAN latch is set (R17, R41). -/
def State.commit (s : State) (e : Entry) : State :=
  let t := { s with generation := s.generation + 1 }
  (t.placeOutcome e.origin (e.outcome .applied (some t.generation))).latch (otherPort e.origin) .plan

/-! ## Drains -/

/-- Every slot that bears a retuning mark is OFF (R47). -/
def State.markedOff (s : State) : Bool := s.everySlot fun x => !x.retuning || !x.transmitting

/-- The end of a drain (R44, R47): the drained slot OFF, the change is applied and the engine enters IDLE; the last marked slot
of a LOAD_PRESET OFF, the engine enters LOADING and asks the store for the read. -/
def State.endDrain (s : State) : State :=
  match s.engine with
  | .draining e =>
    match e.change with
    | .assignSlot k r =>
      if (s.slot k).transmitting then s else (({ s with engine := .idle }).applyRecord k { r with assigned := true }).commit e
    | .releaseSlot k =>
      if (s.slot k).transmitting then s else (({ s with engine := .idle }).applyRecord k .rest).commit e
    | .loadPreset n => if s.markedOff then { s with engine := .loading e, store := s.store.askRead n } else s
    | _ => s
  | _ => s

/-- What a report of OFF brings, the grants formed: the end of a drain, and the end of CLOSING (R98). -/
def State.afterOff (s : State) : State := s.endDrain.closeIfOff

/-! ## Takings -/

/-- The entry that the queue hands over: the oldest EXPEDITED, otherwise the oldest NORMAL (R31). -/
def ChangeQueue.next (q : ChangeQueue) : Option Entry :=
  match q.entries.find? fun e => e.cls == .expedited with
  | some e => some e
  | none => q.entries.head?

/-- The tests at the taking (Table 2.4.2); none is a pass. -/
def State.testChange (s : State) : Change → Option OutcomeCode
  | .assignSlot k r =>
    if !widthKnown r.width then some .badWidth
    else if !bandTest r then some .outOfBand
    else if !conflictTest k r s then some .overlap
    else none
  | .releaseSlot k => if (s.slot k).record.assigned then none else some .emptySlot
  | .setPower k _ => if (s.slot k).record.assigned then none else some .emptySlot
  | .setThresholds k _ _ _ _ => if (s.slot k).record.assigned then none else some .emptySlot
  | .setSlotEnable k _ => if (s.slot k).record.assigned then none else some .emptySlot
  | .loadPreset n =>
    if !(s.store.preset n).isValid then some .presetInvalid
    else if s.store.activity.preset = some n then some .storeBusy
    else none
  | .clearLockout => if s.out.state = .lockout then none else some .wrongState
  | .setPlanParams _ _ _ _ _ => none
  | .setTransmit _ => none

/-- The taking of an ASSIGN_SLOT or RELEASE_SLOT that passes its tests: applied at once on a slot that is OFF (R41), drained
otherwise: the slot is marked, its D becomes false, and a slot at step 0 of RAMP_UP ends the drain at the taking (R43, R44). -/
def State.takeSlotChange (s : State) (e : Entry) (k : SlotIx) (r : SlotRecord) : State :=
  if (s.slot k).transmitting then
    ((({ s with engine := .draining e }).modSlot k fun x => { x with retuning := true }).reformSlot k).afterOff
  else (s.applyRecord k r).commit e

/-- SET_POWER applied (R113). -/
def State.applyPower (s : State) (k : SlotIx) (p : Nat) : State :=
  (s.modSlot k fun x => { x with record := { x.record with power := p } }).govern

/-- SET_THRESHOLDS applied: both dwell counters restart at 0, levels and qualities are kept (R68). -/
def State.applyThresholds (s : State) (k : SlotIx) (tLoss : Int) (hyst lossDwell restoreDwell : Nat) : State :=
  s.modSlot k fun x =>
    { x with
      record := { x.record with tLoss := tLoss, hyst := hyst, lossDwell := lossDwell, restoreDwell := restoreDwell }
      primary := { x.primary with dwell := 0 }
      fallback := { x.fallback with dwell := 0 } }

/-- SET_SLOT_ENABLE applied: D and Q are formed anew, and enabling a slot marked wakes that has a good source is a wake (R42,
R126, R133). -/
def State.applyEnable (s : State) (k : SlotIx) (enabled : Bool) : State :=
  let was := (s.slot k).waking
  let t := ((s.modSlot k fun x => { x with record := { x.record with enabled := enabled } }).reformSlot k).formQuiet
  if !was && (t.slot k).waking && (t.slot k).hasSource then t.wake else t

/-- SET_PLAN_PARAMS applied: the effective budget and the grants are formed anew, and the quiet time is taken (R42, R113,
R123). Running step, hold-off and warm-up timers are left (R79, R93, R119). -/
def State.applyParams (s : State) (budget rampStep warmUpCode quietTime holdOff : Nat) : State :=
  let wide : PlanWide :=
    { s.wide with
      budget := budget
      rampStep := rampStep
      warmUpCode := warmUpCode
      quietTime := quietTime
      holdOff := holdOff }
  (({ s with wide := wide }).formBudget.govern).measureQuiet

/-- The Output Controller acts on a change of tx_enable from `was` to the plan's value (R118). -/
def State.txEnableWritten (s : State) (was : Bool) : State :=
  if s.wide.txEnable = was then s else if s.wide.txEnable then s.txEnabled else s.txDisabled

/-- SET_TRANSMIT applied (R7, R118). -/
def State.applyTransmit (s : State) (v : Bool) : State :=
  ({ s with wide := { s.wide with txEnable := v } }).txEnableWritten s.wide.txEnable

/-- CLEAR_LOCKOUT applied: the trip history is emptied, the transmitter enters OFF_AIR, and at once WARMUP, or TRIPPED under
TRIP, where tx_enable is yes (R131). -/
def State.applyClearLockout (s : State) : State :=
  let t := ({ s with out := { s.out with trips := [] } }).setTx .offAir
  if s.wide.txEnable then t.enterWarmUp else t

/-- The taking of a LOAD_PRESET that passes its tests: every assigned slot is marked and the drain begins; with every assigned
slot OFF the engine passes to LOADING at once (R47). -/
def State.takeLoad (s : State) (e : Entry) : State :=
  ((({ s with engine := .draining e }).mapSlots fun _ x => { x with retuning := x.retuning || x.record.assigned }).reformAll).afterOff

/-- A change that has passed its tests, with its clamped arguments (R41, R43, R47). -/
def State.carryOut (s : State) (e : Entry) : State :=
  match e.change with
  | .assignSlot k r => s.takeSlotChange e k { r with assigned := true }
  | .releaseSlot k => s.takeSlotChange e k .rest
  | .setPower k p => (s.applyPower k p).commit e
  | .setThresholds k t h l r => (s.applyThresholds k t h l r).commit e
  | .setSlotEnable k v => (s.applyEnable k v).commit e
  | .setPlanParams b rs wc q ho => (s.applyParams b rs wc q ho).commit e
  | .setTransmit v => (s.applyTransmit v).commit e
  | .loadPreset _ => s.takeLoad e
  | .clearLockout => s.applyClearLockout.commit e

/-- A refusal at the taking: the outcome is recorded and nothing else moves (R39). -/
def State.refuseChange (s : State) (e : Entry) (code : OutcomeCode) : State := s.placeOutcome e.origin (e.outcome code none)

/-- The expected generation of an entry differs from the plan's (R37). -/
def State.isStale (s : State) (e : Entry) : Bool :=
  match e.expected with
  | some g => g != s.generation
  | none => false

/-- What the engine does with the entry it has received: generation, clamping, tests, application or drain (R36). -/
def State.takeEntry (s : State) (e : Entry) : State :=
  if s.isStale e then s.refuseChange e .stale
  else
    match s.testChange (clampChange e.change) with
    | some code => s.refuseChange e code
    | none => s.carryOut { e with change := clampChange e.change }

/-- The entry that a taking would receive now: the engine is IDLE and the queue holds an entry (R36). -/
def State.dueTaking (s : State) : Option Entry := if s.engine = .idle then s.changes.next else none

/-- The taking of a change of one kind: it occurs where the entry that the queue hands over is of that kind, and no such event
arises otherwise (notes/assumptions/3.md). -/
def State.takeKind (s : State) (kind : ChangeKind) : State :=
  match s.dueTaking with
  | some e =>
    if e.change.kind = kind then
      ({ s with changes := { s.changes with entries := s.changes.entries.erase e } }).takeEntry e
    else s
  | none => s

/-! ## Preset reads (R49, R144) -/

/-- The image replaces the whole plan at one event, the engine enters IDLE, and every reader acts on the new fields: sources
that were held are lost, D is formed for every slot, the effective budget and the grants, and Q (R49, R113, R133, R144). -/
def State.loadImage (s : State) (img : PlanImage) : State :=
  let held := fun k => (s.slot k).hasSource
  let t := { (s.mapSlots fun k x => x.start img.records[k.val]) with wide := img.wide, engine := .idle }
  let t := slotIndices.foldl (fun u k => if held k then u.latchSource k else u) t
  t.formBudget.reformAll.measureQuiet

/-- The boot ends: its result is recorded, the engine enters IDLE, the BOOT latch of both ports is set, and the transmitter
starts where tx_enable is yes (R145). -/
def State.endBoot (s : State) (result : BootResult) : State :=
  (({ s with engine := .idle, store := { s.store with bootResult := result } }).latchBoth .boot).txEnableWritten false

/-- The completion of the read of a LOAD_PRESET (R49). -/
def State.completeLoad (s : State) (e : Entry) (img : PlanImage) : State :=
  ((s.loadImage img).commit e).txEnableWritten s.wide.txEnable

/-- The completion of the boot read (R144, R145): no outcome and no PLAN latch, and the generation becomes 1. -/
def State.completeBoot (s : State) (img : PlanImage) : State :=
  ({ (s.loadImage img) with generation := s.generation + 1 }).endBoot .loaded

end Sys2Proof.Machine
end

