-- ==== Sys2Proof/Machine/Trips.lean ====
section
/-! DEFINITION. The protection level, trips and the trip history (R117, R129, R130). -/

namespace Sys2Proof.Machine

/-- The protection level that the PROT lines present (Table 7.2.1). -/
def protectionOf (hi lo : Bool) : Protection := if hi then .trip else if lo then .foldback else .normal

/-- The time after which an entry leaves the trip history, in ms (R130). -/
def tripWindowMs : Nat := 600000

/-- A trip is recorded: its time joins the history, the transmitter enters LOCKOUT at the third entry and TRIPPED otherwise,
every slot is forced OFF, and drains end (R129, R96, R44). -/
def State.trip (s : State) : State :=
  let trips := s.out.trips ++ [s.now]
  let t := { s with out := { s.out with trips := trips } }
  (t.setTx (if 3 ≤ trips.length then .lockout else .tripped)).forceOff.afterOff

/-- The level leaves TRIP in TRIPPED (R130). -/
def State.leaveTripped (s : State) : State := if s.wide.txEnable then s.enterWarmUp else s.setTx .offAir

/-- A change of the decoded level (R117): it is taken, PROTECTION is set on both ports, the effective budget and the grants
are formed anew, and the transmitter trips, leaves TRIPPED, or stays. -/
def State.changeLevel (s : State) (level : Protection) : State :=
  let t := ((({ s with out := { s.out with level := level } }).latchBoth .protection).formBudget).govern
  if level = .trip then (if s.out.state.amplifierOn then t.trip else t)
  else if s.out.level = .trip ∧ s.out.state = .tripped then t.leaveTripped
  else t

/-- The PROT lines as they stand. -/
def State.setLines (s : State) (hi lo : Bool) : State := { s with protHi := hi, protLo := lo }

end Sys2Proof.Machine
end

