-- ==== Sys2Proof/Machine/ChangeQueueOps.lean ====
section
/-! DEFINITION. The Change Queue (chapter 2): submissions, tickets, the arbiter, purges. -/

namespace Sys2Proof.Machine

/-- The tickets held by the queued entries and by the in-flight change (R26). -/
def State.heldTickets (s : State) : List Byte :=
  s.changes.entries.map Entry.ticket ++
    match s.engine with
    | .draining e => [e.ticket]
    | .loading e => [e.ticket]
    | .booting => []
    | .idle => []

/-- The first ticket from a value on that is not held, looking at a number of values after it (R26). -/
def freeTicket (held : List Byte) : Nat → Byte → Byte
  | 0, t => t
  | n + 1, t => if t ∈ held then freeTicket held n (t + 1) else t

/-- The ticket that an acceptance issues: the counter's value, or the first value after it that is not held (R26). -/
def State.nextTicket (s : State) : Byte := freeTicket s.heldTickets s.heldTickets.length s.changes.counter

/-- A submission is served: the last-served mark is set to its port, whatever its answer (R29). -/
def State.served (s : State) (p : Port) : State := { s with changes := { s.changes with lastServed := p } }

/-- The entry that an acceptance appends at the young end of the queue, and the counter after issuing (R25, R26). -/
def State.accept (s : State) (p : Port) (m : Submitted) : State :=
  let t := s.nextTicket
  { s with
    changes :=
      { s.changes with
        entries := s.changes.entries ++ [⟨t, p, m.cls, m.change, m.expected⟩]
        counter := t + 1 } }

/-- A submission reaches the Change Queue, which answers MALFORMED, QUEUE_FULL, or ACCEPTED with the ticket (R25, R171). -/
def State.submit (s : State) (p : Port) (payload : List Byte) : (ResponseCode × List Byte) × State :=
  match submittedOfPayload payload with
  | none => ((.malformed, []), s.served p)
  | some m =>
    if 8 ≤ s.changes.entries.length then ((.queueFull, []), s.served p)
    else ((.accepted, [s.nextTicket]), (s.served p).accept p m)

/-- The port that the arbiter serves first of two submissions that reach the queue together (R29). -/
def State.servedFirst (s : State) : Port := otherPort s.changes.lastServed

/-- A purge: every queued entry of the port leaves, and each is recorded PURGED, oldest first; the other port's entries and the
in-flight change are not touched (R32). -/
def State.purge (s : State) (p : Port) : State :=
  let gone := s.changes.entries.filter fun e => e.origin == p
  let stay := s.changes.entries.filter fun e => e.origin != p
  gone.foldl (fun t e => t.placeOutcome p (e.outcome .purged none)) { s with changes := { s.changes with entries := stay } }

end Sys2Proof.Machine
end

