-- ==== Sys2Proof/Machine/Reports.lean ====
section
/-! DEFINITION. The payloads of the responses (section 11.4, Tables 11.1.5 and 11.1.8). -/

namespace Sys2Proof.Machine

/-! ## Value codes (Table 11.1.8) -/

/-- Engine state. -/
def Engine.byte : Engine → Byte
  | .booting => 0
  | .idle => 1
  | .draining _ => 2
  | .loading _ => 3

/-- Transmitter state. -/
def TxState.byte : TxState → Byte
  | .offAir => 0
  | .warmUp => 1
  | .onAir => 2
  | .closing _ => 3
  | .standby => 4
  | .tripped => 5
  | .lockout => 6

/-- The CLOSING target, absent outside CLOSING. -/
def TxState.targetByte : TxState → Byte
  | .closing t => t.state.byte
  | .offAir => absentByte
  | .warmUp => absentByte
  | .onAir => absentByte
  | .standby => absentByte
  | .tripped => absentByte
  | .lockout => absentByte

/-- Protection level. -/
def Protection.byte : Protection → Byte
  | .normal => 0
  | .foldback => 1
  | .trip => 2

/-- Link state. -/
def LinkState.byte : LinkState → Byte
  | .search => 0
  | .locked => 1

/-- Quality. -/
def Quality.byte : Quality → Byte
  | .bad => 0
  | .good => 1

/-- Source state. -/
def Source.byte : Source → Byte
  | .lost => 0
  | .onPrimary => 1
  | .onFallback => 2

/-- Last in-use path. -/
def lastPathByte : PathName → Byte
  | .primary => 0
  | .fallback => 1

/-- Transmission state. -/
def RampState.byte : RampState → Byte
  | .off => 0
  | .rampUp => 1
  | .on => 2
  | .rampDown => 3

/-- Content. -/
def Content.byte : Content → Byte
  | .program => 0
  | .pilot => 1

/-- Outcome code. -/
def OutcomeCode.byte : OutcomeCode → Byte
  | .applied => 1
  | .stale => 2
  | .overlap => 3
  | .outOfBand => 4
  | .badWidth => 5
  | .emptySlot => 6
  | .presetInvalid => 7
  | .storeBusy => 8
  | .wrongState => 9
  | .purged => 10

/-- Preset state. -/
def Preset.byte : Preset → Byte
  | .empty => 0
  | .valid _ => 1
  | .corrupt => 2

/-- Store phase. -/
def Phase.byte : Phase → Byte
  | .idle => 0
  | .erasing => 1
  | .programming => 2
  | .writingBoot => 3
  | .reading => 4

/-- Port A or B as a starter. -/
def portByte : Port → Byte
  | .a => 0
  | .b => 1

/-- Boot result. -/
def BootResult.byte : BootResult → Byte
  | .pending => 0
  | .none => 1
  | .empty => 2
  | .corrupt => 3
  | .loaded => 4

/-- Feed (Table 11.1.5). -/
def feedByte : Feed → Byte
  | .a => 0
  | .b => 1

/-- Loss action (Table 11.1.5). -/
def LossAction.byte : LossAction → Byte
  | .mute => 0
  | .pilot => 1

/-- A preset number or a boot selection, 0xFF for NONE or absent. -/
def presetByte : Option PresetIx → Byte
  | some n => byteOfNat n.val
  | none => absentByte

/-! ## READ_SLOT and SCAN_NEXT (R172) -/

/-- The slot record in 23 bytes (Table 11.1.5); bytes 7 to 11 are 0 where there is no fallback path (R172). -/
def SlotRecord.bytes (r : SlotRecord) : List Byte :=
  [byteOfBits [r.enabled, r.fallback.isSome, r.wakes, r.assigned], r.lossAction.byte, feedByte r.primary.feed] ++
    bytesOfInt32 r.primary.offset ++
    (match r.fallback with
    | some f => [feedByte f.feed] ++ bytesOfInt32 f.offset
    | none => [0] ++ bytesOfInt32 0) ++
    bytesOfInt32 r.output ++ [byteOfNat r.width] ++ bytesOfNat16 r.power ++
    [byteOfInt r.tLoss, byteOfNat r.hyst, byteOfNat r.lossDwell, byteOfNat r.restoreDwell]

/-- A path state in three bytes (R172). -/
def PathState.bytes (v : PathState) : List Byte := [byteOfInt v.level, v.quality.byte, byteOfNat v.dwell]

/-- The report of a slot in 56 bytes (R172). A path that is not present holds the rest values, which are reported for it. -/
def State.slotReport (s : State) (k : SlotIx) : List Byte :=
  let x := s.slot k
  [byteOfNat k.val] ++ bytes16 s.generation ++ x.record.bytes ++
    bytes32 x.words.out ++ bytes32 x.words.primary ++ bytes32 x.words.fallback ++
    x.primary.bytes ++ x.fallback.bytes ++
    [x.sel.source.byte, lastPathByte x.sel.lastPath] ++ bytesOfNat16 (x.sel.holdOff.getD 0) ++
    [byteOfBits [x.sel.switchPending, x.retuning], x.sel.content.byte, x.ramp.state.byte, byteOfNat x.ramp.step] ++
    bytesOfNat16 x.grant ++ bytesOfNat16 x.share

/-! ## READ_PLAN, READ_TRANSMITTER, READ_FEEDS (R173) -/

/-- The ticket of the in-flight change, 0 outside DRAINING and LOADING (R173). -/
def Engine.ticketByte : Engine → Byte
  | .draining e => e.ticket
  | .loading e => e.ticket
  | .booting => 0
  | .idle => 0

/-- READ_PLAN in 13 bytes (R173). -/
def State.planReport (s : State) : List Byte :=
  bytes16 s.generation ++ [s.engine.byte, s.engine.ticketByte, byteOfNat s.changes.entries.length] ++
    bytesOfNat16 s.wide.budget ++ [byteOfNat s.wide.rampStep, byteOfNat s.wide.warmUpCode] ++
    bytesOfNat16 s.wide.quietTime ++ [byteOfNat s.wide.holdOff, byteOfBool s.wide.txEnable]

/-- The age of a trip in whole seconds, rounded down, 0..599 (R132). At the instant at which its departure is due the age is
reported as 599 (notes/assumptions/13.md). -/
def State.tripAge (s : State) (t : Nat) : Nat := min 599 ((s.now - t) / 1000)

/-- The age at a place of the trip history, 0 where there is no entry (R173). -/
def State.tripAgeAt (s : State) (i : Nat) : Nat :=
  match s.out.trips[i]? with
  | some t => s.tripAge t
  | none => 0

/-- READ_TRANSMITTER in 28 bytes (R132, R173). The quiet timer's elapsed seconds while it is stopped are 0: DESIGN CHOICE,
notes/assumptions/22.md. -/
def State.transmitterReport (s : State) : List Byte :=
  [s.out.state.byte, s.out.state.targetByte, byteOfBool s.out.paEn, s.out.level.byte,
    byteOfBits [s.out.hold.a, s.out.hold.b], byteOfNat s.out.trips.length] ++
    bytesOfNat16 (s.tripAgeAt 0) ++ bytesOfNat16 (s.tripAgeAt 1) ++ bytesOfNat16 (s.tripAgeAt 2) ++
    bytesOfNat16 (s.out.warmUp.getD 0) ++ bytesOfNat16 (s.out.quiet.getD 0 / 1000) ++ [byteOfBool s.out.quiet.isSome] ++
    bytesOfNat16 s.bEff ++ [byteOfNat s.members] ++ bytesOfNat16 s.demand ++ bytesOfNat16 s.grantSum ++
    bytesOfNat16 (s.bEff - s.grantSum) ++ bytesOfNat16 s.shareSum

/-- A receiver's link state and the count in use (R173). -/
def Receiver.bytes (r : Receiver) : List Byte :=
  match r.link with
  | .search => [r.link.byte, byteOfNat r.good]
  | .locked => [r.link.byte, byteOfNat r.miss]

/-- READ_FEEDS in 4 bytes (R173). -/
def State.feedsReport (s : State) : List Byte := s.feeds.a.bytes ++ s.feeds.b.bytes

/-! ## READ_OUTCOMES, READ_EVENTS, READ_STORE (R174) -/

/-- An outcome record in 6 bytes (R174). -/
def OutcomeRecord.bytes (r : OutcomeRecord) : List Byte :=
  [r.ticket, kindByte r.kind,
    (match r.argument with
    | some n => byteOfNat n
    | none => absentByte),
    r.code.byte] ++ bytes16 (r.generation.getD 0)

/-- READ_OUTCOMES in 49 bytes: the count and eight places, those past the count filled with 0x00 (R174). -/
def PortState.outcomesReport (q : PortState) : List Byte :=
  [byteOfNat q.outcomes.length] ++ q.outcomes.flatMap OutcomeRecord.bytes ++
    List.replicate (6 * (8 - q.outcomes.length)) 0x00

/-- READ_EVENTS in 5 bytes, formed before the clearing (R174). -/
def PortState.eventsReport (q : PortState) : List Byte :=
  bytes16 (q.unmasked.setWidth 16) ++
    [(match q.highest with
    | some c => byteOfNat c.number
    | none => 0)] ++ bytes16 q.changed

/-- The kind, argument and starter of the operation in progress, each absent in IDLE (R174). -/
def Activity.bytes : Activity → List Byte
  | .idle => [absentByte, absentByte, absentByte]
  | .savingErase n _ p => [1, byteOfNat n.val, portByte p]
  | .savingProgram n _ p => [1, byteOfNat n.val, portByte p]
  | .erasing n p => [2, byteOfNat n.val, portByte p]
  | .writingBoot sel p => [3, presetByte sel, portByte p]
  | .reading n => [4, byteOfNat n.val, 2]

/-- The kind and argument of an operation that a port started (Table 11.1.8). -/
def PortOp.bytes : PortOp → List Byte
  | .save n => [1, byteOfNat n.val]
  | .erase n => [2, byteOfNat n.val]
  | .writeBoot sel => [3, presetByte sel]

/-- The last result: presence, kind, argument, starting port, and 0 DONE or 1 VERIFY_FAILED (R174). -/
def lastResultBytes : Option LastResult → List Byte
  | some r => [1] ++ r.op.bytes ++ [portByte r.port, byteOfBool (!r.done)]
  | none => [0, 0, 0, 0, 0]

/-- READ_STORE in 17 bytes, with the toggle bit of the issuing port (R174). -/
def Store.report (st : Store) (p : Port) : List Byte :=
  [st.activity.phase.byte] ++ st.activity.bytes ++ [presetByte st.pendingRead] ++
    [(st.preset 0).byte, (st.preset 1).byte, (st.preset 2).byte, (st.preset 3).byte] ++ [presetByte st.boot] ++
    lastResultBytes st.lastResult ++ [st.bootResult.byte, byteOfBool (st.toggle.at p)]

end Sys2Proof.Machine
end

