-- ==== Sys2Proof/Machine/PortOps.lean ====
section
/-! DEFINITION. The control ports (chapter 9): execution of queued commands, classification of frames, select periods, the
urgent register, PORT_CLEAR, silence. -/

namespace Sys2Proof.Machine

/-- A response code with its payload. -/
abbrev Reply := ResponseCode × List Byte

/-! ## What each queued command does at its execution -/

/-- READ_SLOT (R172); a slot above 15 is MALFORMED (R170). -/
def State.doReadSlot (s : State) (payload : List Byte) : Reply × State :=
  match slotOfByte (byteAt payload 0) with
  | some k => ((.ok, s.slotReport k), s)
  | none => ((.malformed, []), s)

/-- READ_EVENTS: the report as the latches stand, then the clearing (R165). -/
def State.doReadEvents (s : State) (p : Port) : Reply × State :=
  ((.ok, (s.port p).eventsReport), s.modPort p PortState.clearHighest)

/-- The toggle bit of a port inverts while the store is not IDLE (R141). -/
def Store.touch (st : Store) (p : Port) : Store :=
  if st.activity = .idle then st else { st with toggle := st.toggle.put p (!st.toggle.at p) }

/-- READ_STORE: the toggle bit after the inversion is reported (R141). -/
def State.doReadStore (s : State) (p : Port) : Reply × State :=
  let st := s.store.touch p
  ((.ok, st.report p), { s with store := st })

/-- SET_EVENT_MASK (R163, R175). -/
def State.doSetMask (s : State) (p : Port) (payload : List Byte) : Reply × State :=
  ((.ok, []), s.modPort p fun q => q.writeMask (word16At payload 0))

/-- SET_PEER_FLAGS: both flags together; the other port's PEER latch is set where either changes (R156, R175). -/
def State.doSetPeer (s : State) (p : Port) (payload : List Byte) : Reply × State :=
  let f0 := (byteAt payload 0).getLsbD 0
  let f1 := (byteAt payload 0).getLsbD 1
  let t := s.modPort p fun q => { q with peer0 := f0, peer1 := f1 }
  ((.ok, []), if (s.port p).peer0 = f0 ∧ (s.port p).peer1 = f1 then t else t.latch (otherPort p) .peer)

/-- The silence timer as a write of the silence time leaves it: stopped at 0, restarted otherwise, and stopped throughout a
select period (R157, notes/assumptions/15.md). What a write that a PORT_CLEAR brings just before the silence expiry does to that
expiry is DESIGN CHOICE, notes/assumptions/21.md. -/
def PortState.writeSilence (q : PortState) (t : Nat) : PortState :=
  { q with silenceTime := t, silenceTimer := if t = 0 ∨ q.period.isSome then none else some 0 }

/-- SET_SILENCE (R157, R175). -/
def State.doSetSilence (s : State) (p : Port) (payload : List Byte) : Reply × State :=
  ((.ok, []), s.modPort p fun q => q.writeSilence (byteAt payload 0).toNat)

/-- SCAN_RANGE: the range is set and the pointer placed at first (R160); a bound above 15 is MALFORMED (R170). -/
def State.doScanRange (s : State) (p : Port) (payload : List Byte) : Reply × State :=
  match slotOfByte (byteAt payload 0), slotOfByte (byteAt payload 1) with
  | some first, some last =>
    ((.ok, []), s.modPort p fun q => { q with scanFirst := first, scanLast := last, scanPtr := first })
  | _, _ => ((.malformed, []), s)

/-- The scan pointer advances: from last back to first, otherwise to the next index, 15 being followed by 0 (R160). -/
def PortState.advanceScan (q : PortState) : PortState :=
  { q with scanPtr := if q.scanPtr = q.scanLast then q.scanFirst else q.scanPtr + 1 }

/-- SCAN_NEXT: the report of the slot at the pointer, then the advance (R160, R172). -/
def State.doScanNext (s : State) (p : Port) : Reply × State :=
  ((.ok, s.slotReport (s.port p).scanPtr), s.modPort p PortState.advanceScan)

/-- A store command: the store's answer, with no payload (R136, R175). -/
def State.doStore (s : State) (p : Port) (op : PortOp) : Reply × State :=
  let r := s.storeCommand p op
  ((r.1, []), r.2)

/-- SAVE_PRESET; a preset above 3 is MALFORMED (R170). -/
def State.doSave (s : State) (p : Port) (payload : List Byte) : Reply × State :=
  match presetOfByte (byteAt payload 0) with
  | some n => s.doStore p (.save n)
  | none => ((.malformed, []), s)

/-- ERASE_PRESET; a preset above 3 is MALFORMED (R170). -/
def State.doErase (s : State) (p : Port) (payload : List Byte) : Reply × State :=
  match presetOfByte (byteAt payload 0) with
  | some n => s.doStore p (.erase n)
  | none => ((.malformed, []), s)

/-- SET_BOOT; an argument that is neither 0..3 nor 0xFF is MALFORMED (R170). -/
def State.doSetBoot (s : State) (p : Port) (payload : List Byte) : Reply × State :=
  match bootOfByte (byteAt payload 0) with
  | some sel => s.doStore p (.writeBoot sel)
  | none => ((.malformed, []), s)

/-- A queued command whose form has passed its length check, at its execution. The codes that never stand in the queue in a
right form (NOP, the urgent commands) are answered MALFORMED (R170). -/
def State.act (s : State) (p : Port) (c : Command) (payload : List Byte) : Reply × State :=
  match c with
  | .submitChange => s.submit p payload
  | .readSlot => s.doReadSlot payload
  | .readPlan => ((.ok, s.planReport), s)
  | .readTransmitter => ((.ok, s.transmitterReport), s)
  | .readFeeds => ((.ok, s.feedsReport), s)
  | .readOutcomes => ((.ok, (s.port p).outcomesReport), s)
  | .readEvents => s.doReadEvents p
  | .readStore => s.doReadStore p
  | .setEventMask => s.doSetMask p payload
  | .setPeerFlags => s.doSetPeer p payload
  | .setSilence => s.doSetSilence p payload
  | .scanRange => s.doScanRange p payload
  | .scanNext => s.doScanNext p
  | .savePreset => s.doSave p payload
  | .erasePreset => s.doErase p payload
  | .setBoot => s.doSetBoot p payload
  | .nop => ((.malformed, []), s)
  | .holdOutput => ((.malformed, []), s)
  | .releaseOutput => ((.malformed, []), s)
  | .purgeChanges => ((.malformed, []), s)
  | .portClear => ((.malformed, []), s)

/-- Whether the port hands a queued frame on: delivered in full, and of its command's length; a SUBMIT_CHANGE delivered in full
passes whatever its payload (R170). -/
def formPasses (c : Command) (b : Body) : Bool :=
  if c = .submitChange then !deliveredShort b else lengthFits c b

/-- The execution of a queued frame: UNKNOWN, MALFORMED, or what its command does (R151, R152, R170). A frame delivered short whose
code is in no row of Table 11.1.3 is answered UNKNOWN, by R170 and R152, where R168 and R149 say MALFORMED of a short frame: DESIGN
CHOICE, notes/assumptions/25.md. -/
def State.perform (s : State) (p : Port) (f : Frame) : Reply × State :=
  match commandOfCode f.code with
  | none => ((.unknown, []), s)
  | some c => if formPasses c f.body then s.act p c f.body.payload else ((.malformed, []), s)

/-- An execution appends its one response to the young end of the response queue (R151). -/
def State.executeFrame (s : State) (p : Port) (f : Frame) : State :=
  let r := s.perform p f
  r.2.modPort p fun q => { q with rspQueue := q.rspQueue ++ [⟨r.1.1, f.code, r.1.2⟩] }

/-- Commands are executed from the head, in order, as long as the response queue has room; the rest wait (R151). -/
def State.runCommands (p : Port) : List Frame → State → State
  | [], s => s.modPort p fun q => { q with cmdQueue := [] }
  | f :: fs, s =>
    if (s.port p).rspQueue.length < 4 then State.runCommands p fs (s.executeFrame p f)
    else s.modPort p fun q => { q with cmdQueue := f :: fs }

/-- The executions that one event of a port allows (R151). -/
def State.runPort (s : State) (p : Port) : State := State.runCommands p (s.port p).cmdQueue s

/-! ## Classification (R149, R153) -/

/-- An urgent frame meets the urgent register (R153). -/
def PortState.placeUrgent (q : PortState) (u : Urgent) : PortState :=
  if q.urgent.isSome then { q with urgentLost := true } else { q with urgent := some u }

/-- A frame joins the command queue, or is discarded with OVERRUN at a full one (R149). -/
def PortState.enqueue (q : PortState) (f : Frame) : PortState :=
  if q.cmdQueue.length < 4 then { q with cmdQueue := q.cmdQueue ++ [f] } else { q with overrun := true }

/-- The classification of a delivered frame: a NOP, an urgent command in its right form, or a frame for the command queue
(R149, item 3). -/
def PortState.classify (q : PortState) (f : Frame) : PortState :=
  if f.code = 0 then q
  else
    match urgentOfFrame f with
    | some u => q.placeUrgent u
    | none => q.enqueue f

/-- A frame is delivered to a port: it is classified, and what there is room for is executed (R149, items 3 and 4). -/
def State.deliver (s : State) (p : Port) (f : Frame) : State := (s.modPort p fun q => q.classify f).runPort p

/-- A frame of a command, delivered to a port, as the part keeps it. -/
def State.deliverCommand (s : State) (p : Port) (c : Command) (b : Body) : State := s.deliver p ⟨codeOf c, keptBody b⟩

/-! ## Select periods (R148 to R150) -/

/-- What a select period fixes at its start (R148). -/
def State.fixOutgoing (s : State) (p : Port) : Outgoing where
  response := (s.port p).rspQueue.head?
  summary := s.summary p
  atHead := (s.port p).rspQueue.head?.isSome

/-- The start of a select period: the frame is fixed, the silence timer stops, and a SILENT port becomes ACTIVE, which sets the
other port's PEER latch (R148, R158). -/
def State.startPeriod (s : State) (p : Port) : State :=
  let t := s.modPort p fun q => { q with period := some (s.fixOutgoing p), silenceTimer := none, silent := false }
  if (s.port p).silent then t.latch (otherPort p) .peer else t

/-- The response that a period has shifted out whole leaves the queue; a frame that a PORT_CLEAR removed, or an EMPTY frame,
removes nothing (R149, item 1, R155). -/
def PortState.removeShifted (q : PortState) (o : Outgoing) (n : Nat) : PortState :=
  if o.atHead && decide (o.length ≤ n) then { q with rspQueue := q.rspQueue.tail } else q

/-- Whether the classification of a frame discards it for OVERRUN (R149). -/
def PortState.overruns (q : PortState) (f : Frame) : Bool :=
  f.code != 0 && (urgentOfFrame f).isNone && decide (4 ≤ q.cmdQueue.length)

/-- Whether the classification of a frame discards it for URGENT_LOST (R153). -/
def PortState.losesUrgent (q : PortState) (f : Frame) : Bool :=
  f.code != 0 && (urgentOfFrame f).isSome && q.urgent.isSome

/-- OVERRUN and URGENT_LOST clear where the period's outgoing frame showed them set and the period discarded nothing for the
same reason (R150). -/
def PortState.clearShown (q : PortState) (o : Outgoing) (overran lostUrgent : Bool) : PortState :=
  { q with
    overrun := q.overrun && !(o.summary.overrun && !overran)
    urgentLost := q.urgentLost && !(o.summary.urgentLost && !lostUrgent) }

/-- The period is over, and a supervised port's silence timer starts at 0 (R149, item 6, R157). -/
def PortState.closePeriod (q : PortState) : PortState :=
  { q with period := none, silenceTimer := if q.silenceTime = 0 then none else some 0 }

/-- The end of a select period in which bytes were shifted in: removal, execution, classification, execution, flag clearing and
silence, in this order (R149). A period of fewer than 2 bytes is a NOP. -/
def State.endPeriod (s : State) (p : Port) (o : Outgoing) (shifted : List Byte) : State :=
  let t := (s.modPort p fun q => q.removeShifted o shifted.length).runPort p
  if shifted.length < 2 then t.modPort p fun q => (q.clearShown o false false).closePeriod
  else
    let f := frameOfBytes shifted
    (t.deliver p f).modPort p fun q =>
      (q.clearShown o ((t.port p).overruns f) ((t.port p).losesUrgent f)).closePeriod

/-! ## The urgent register (R153) -/

/-- The taking of an urgent command makes the register absent (R153). -/
def State.releaseUrgent (s : State) (p : Port) : State := s.modPort p fun q => { q with urgent := none }

/-- The selector names the response queue. -/
def ClearSelector.clearsResponses : ClearSelector → Bool
  | .commands => false
  | .responses => true
  | .both => true

/-- The selector names the command queue. -/
def ClearSelector.clearsCommands : ClearSelector → Bool
  | .commands => true
  | .responses => false
  | .both => true

/-- What PORT_CLEAR clears: the named queues, OVERRUN and URGENT_LOST; a queued response being shifted out has then left the
queue (R155). -/
def PortState.clear (q : PortState) (sel : ClearSelector) : PortState :=
  { q with
    cmdQueue := if sel.clearsCommands then [] else q.cmdQueue
    rspQueue := if sel.clearsResponses then [] else q.rspQueue
    overrun := false
    urgentLost := false
    period :=
      match q.period with
      | some o => some { o with atHead := o.atHead && !sel.clearsResponses }
      | none => none }

/-- PORT_CLEAR taken: what it clears, and the executions for which it makes room (R151, R155). -/
def State.clearPort (s : State) (p : Port) (sel : ClearSelector) : State := (s.modPort p fun q => q.clear sel).runPort p

/-! ## Silence (R158) -/

/-- A port as its silence expiry leaves it (R158). -/
def PortState.goSilent (q : PortState) : PortState :=
  { q with silent := true, silenceTimer := none, peer0 := false, peer1 := false, urgent := none }

/-- A port goes SILENT: it leaves the hold set, its peer flags become 0, its pending urgent command is discarded, and the other
port's PEER latch is set (R158). -/
def State.silence (s : State) (p : Port) : State :=
  ((s.modPort p PortState.goSilent).latch (otherPort p) .peer).setHold p false

end Sys2Proof.Machine
end

