-- ==== Sys2Proof/Machine/QueuedCommands.lean ====
section
/-! DEFINITION. Select periods, and the queued commands. A queued command of the table is its frame delivered to a port: it is
classified as the end of a select period classifies it and executed in its turn, at once where the response queue has room
(R149, R151, notes/assumptions/4.md). -/

namespace Sys2Proof.Machine

/-- SELECT_PERIOD_START (R148): no such event arises in a select period in progress (notes/assumptions/14.md). -/
def execSelectPeriodStart (p : Port) (s : State) : Host.Outcome State Fault Refusal :=
  .next (if (s.port p).period.isSome then s else s.startPeriod p)

/-- The end of the select period in progress on a port, where there is one (R149). -/
def State.endPeriodOf (s : State) (p : Port) (shifted : List Byte) : State :=
  match (s.port p).period with
  | some o => s.endPeriod p o shifted
  | none => s

/-- SELECT_PERIOD_END (R149): no such event arises outside a select period (notes/assumptions/14.md). -/
def execSelectPeriodEnd (p : Port) (shifted : List Byte) (s : State) : Host.Outcome State Fault Refusal :=
  .next (s.endPeriodOf p shifted)

/-- UNKNOWN (R170): a frame whose code is no command. -/
def execUnknown (p : Port) (code : Byte) (b : Body) (s : State) : Host.Outcome State Fault Refusal :=
  .next (s.deliver p ⟨code, keptBody b⟩)

/-- The submissions that reach the ports: two that come together are served in the arbiter's order (R29). -/
def State.submissions (s : State) : Submission → State
  | .single p b => s.deliverCommand p .submitChange b
  | .together a b =>
    match s.servedFirst with
    | .a => (s.deliverCommand .a .submitChange a).deliverCommand .b .submitChange b
    | .b => (s.deliverCommand .b .submitChange b).deliverCommand .a .submitChange a

/-- SUBMIT_CHANGE (R25, R29, R171). -/
def execSubmitChange (sub : Submission) (s : State) : Host.Outcome State Fault Refusal := .next (s.submissions sub)

/-- READ_SLOT (R172). -/
def execReadSlot (p : Port) (b : Body) (s : State) : Host.Outcome State Fault Refusal := .next (s.deliverCommand p .readSlot b)

/-- READ_PLAN (R173). -/
def execReadPlan (p : Port) (b : Body) (s : State) : Host.Outcome State Fault Refusal := .next (s.deliverCommand p .readPlan b)

/-- READ_TRANSMITTER (R132, R173). -/
def execReadTransmitter (p : Port) (b : Body) (s : State) : Host.Outcome State Fault Refusal := .next (s.deliverCommand p .readTransmitter b)

/-- READ_FEEDS (R173). -/
def execReadFeeds (p : Port) (b : Body) (s : State) : Host.Outcome State Fault Refusal := .next (s.deliverCommand p .readFeeds b)

/-- READ_OUTCOMES (R174). -/
def execReadOutcomes (p : Port) (b : Body) (s : State) : Host.Outcome State Fault Refusal := .next (s.deliverCommand p .readOutcomes b)

/-- READ_EVENTS (R165). -/
def execReadEvents (p : Port) (b : Body) (s : State) : Host.Outcome State Fault Refusal := .next (s.deliverCommand p .readEvents b)

/-- READ_STORE (R141). -/
def execReadStore (p : Port) (b : Body) (s : State) : Host.Outcome State Fault Refusal := .next (s.deliverCommand p .readStore b)

/-- SET_EVENT_MASK (R163). -/
def execSetEventMask (p : Port) (b : Body) (s : State) : Host.Outcome State Fault Refusal := .next (s.deliverCommand p .setEventMask b)

/-- SET_PEER_FLAGS (R156). -/
def execSetPeerFlags (p : Port) (b : Body) (s : State) : Host.Outcome State Fault Refusal := .next (s.deliverCommand p .setPeerFlags b)

/-- SET_SILENCE (R157). -/
def execSetSilence (p : Port) (b : Body) (s : State) : Host.Outcome State Fault Refusal := .next (s.deliverCommand p .setSilence b)

/-- SCAN_RANGE (R160). -/
def execScanRange (p : Port) (b : Body) (s : State) : Host.Outcome State Fault Refusal := .next (s.deliverCommand p .scanRange b)

/-- SCAN_NEXT (R160). -/
def execScanNext (p : Port) (b : Body) (s : State) : Host.Outcome State Fault Refusal := .next (s.deliverCommand p .scanNext b)

/-- SAVE_PRESET (R137). -/
def execSavePreset (p : Port) (b : Body) (s : State) : Host.Outcome State Fault Refusal := .next (s.deliverCommand p .savePreset b)

/-- ERASE_PRESET (R138). -/
def execErasePreset (p : Port) (b : Body) (s : State) : Host.Outcome State Fault Refusal := .next (s.deliverCommand p .erasePreset b)

/-- SET_BOOT (R138). -/
def execSetBoot (p : Port) (b : Body) (s : State) : Host.Outcome State Fault Refusal := .next (s.deliverCommand p .setBoot b)

end Sys2Proof.Machine
end

