-- ==== Sys2Proof/Machine/Resets.lean ====
section
/-! DEFINITION. DEVICE_RESET and END_OF_RESET (R115, R142, R143). -/

namespace Sys2Proof.Machine

/-- DEVICE_RESET: every block returns to its reset state, a store operation is cut, queued and in-flight changes are discarded
without outcome (R2, R34, R35, R54, R101, R115, R142, R147, R161). The non-volatile state, the PROT lines and the model's own
queue, clock and counter stay. -/
def State.deviceReset (s : State) : State :=
  { State.reset with
    pending := s.pending
    store := s.store.cut
    protHi := s.protHi
    protLo := s.protLo
    now := s.now
    fresh := s.fresh }

/-- The boot decision (Table 8.5.1): the boot ends at once, or the read of the selected preset starts. -/
def State.bootDecision (s : State) : State :=
  match s.store.boot with
  | none => s.endBoot .none
  | some n =>
    match s.store.preset n with
    | .empty => s.endBoot .empty
    | .corrupt => s.endBoot .corrupt
    | .valid _ => { s with store := s.store.askRead n }

/-- The end of the reset: the protection level is taken from the PROT lines, which is no change of level, the effective budget
is formed from it (R101, R115), the first monitor interval is 10 ms away (R61), and the boot is decided (R143). -/
def State.endOfReset (s : State) (hi lo : Bool) : State :=
  (({ s.setLines hi lo with
      resetHeld := false
      monitorIn := 10
      out := { s.out with level := protectionOf hi lo } }).formBudget.govern).bootDecision

/-- DEVICE_RESET (R115). -/
def execDeviceReset (s : State) : Host.Outcome State Fault Refusal := .next s.deviceReset

/-- END_OF_RESET (R143): it ends a device reset; no such event arises where none is held (notes/assumptions/7.md). -/
def execEndOfReset (hi lo : Bool) (s : State) : Host.Outcome State Fault Refusal :=
  .next (if s.resetHeld then s.endOfReset hi lo else s)

end Sys2Proof.Machine
end

