-- ==== Sys2Proof/Machine/StoreEvents.lean ====
section
/-! DEFINITION. The ends of the store's phases (chapter 8). A phase that is not running does not end
(notes/assumptions/2.md). -/

namespace Sys2Proof.Machine

/-- The store as the end of a read leaves it: IDLE, and no pending read (R139). -/
def Store.endRead (st : Store) : Store := { st.begin .idle 0 with pendingRead := none }

/-- The end of a save's ERASING phase: the preset is EMPTY and PROGRAMMING begins (R137). -/
def State.endErasing (s : State) : State :=
  match s.store.activity with
  | .savingErase n snapshot p =>
    { s with store := (s.store.putPreset n .empty).begin (.savingProgram n snapshot p) programmingMs }
  | _ => s

/-- The end of PROGRAMMING: VALID with the snapshot where the verification passes, CORRUPT where it fails (R137). -/
def State.endProgramming (s : State) (verified : Bool) : State :=
  match s.store.activity with
  | .savingProgram n snapshot p =>
    s.completeOperation (s.store.putPreset n (if verified then .valid snapshot else .corrupt)) (.save n) p verified
  | _ => s

/-- The completion of an erase (R138). -/
def State.endErase (s : State) : State :=
  match s.store.activity with
  | .erasing n p => s.completeOperation (s.store.putPreset n .empty) (.erase n) p true
  | _ => s

/-- The completion of a boot-selector write (R138). -/
def State.endBootWrite (s : State) : State :=
  match s.store.activity with
  | .writingBoot sel p => s.completeOperation { s.store with boot := sel } (.writeBoot sel) p true
  | _ => s

/-- The completion of a read: the engine completes its LOAD_PRESET (R49) or the boot load (R144). A read that finds no VALID
preset, or no engine that asked, cannot complete (R48, notes/assumptions/16.md). -/
def State.endRead (s : State) : State :=
  match s.store.activity with
  | .reading n =>
    let t := { s with store := s.store.endRead }
    match s.store.preset n, s.engine with
    | .valid img, .loading e => t.completeLoad e img
    | .valid img, .booting => t.completeBoot img
    | _, _ => s
  | _ => s

/-- END_OF_ERASING (R137). -/
def execEndOfErasing (s : State) : Host.Outcome State Fault Refusal := .next s.endErasing

/-- END_OF_PROGRAMMING (R137). -/
def execEndOfProgramming (verified : Bool) (s : State) : Host.Outcome State Fault Refusal := .next (s.endProgramming verified)

/-- ERASE_COMPLETION (R138). -/
def execEraseCompletion (s : State) : Host.Outcome State Fault Refusal := .next s.endErase

/-- BOOT_SELECTOR_WRITE_COMPLETION (R138). -/
def execBootSelectorWriteCompletion (s : State) : Host.Outcome State Fault Refusal := .next s.endBootWrite

/-- READ_COMPLETION (R49, R144). -/
def execReadCompletion (s : State) : Host.Outcome State Fault Refusal := .next s.endRead

end Sys2Proof.Machine
end

