-- ==== Sys2Proof/Machine/Takings.lean ====
section
/-! DEFINITION. The takings of the Plan Engine, one command for each kind of change (R36, Table 2.1.1). -/

namespace Sys2Proof.Machine

/-- ASSIGN_SLOT taken (R46). -/
def execAssignSlot (s : State) : Host.Outcome State Fault Refusal := .next (s.takeKind .assignSlot)

/-- RELEASE_SLOT taken (R46). -/
def execReleaseSlot (s : State) : Host.Outcome State Fault Refusal := .next (s.takeKind .releaseSlot)

/-- SET_POWER taken (R41, R113). -/
def execSetPower (s : State) : Host.Outcome State Fault Refusal := .next (s.takeKind .setPower)

/-- SET_THRESHOLDS taken (R41, R68). -/
def execSetThresholds (s : State) : Host.Outcome State Fault Refusal := .next (s.takeKind .setThresholds)

/-- SET_SLOT_ENABLE taken (R41, R133). -/
def execSetSlotEnable (s : State) : Host.Outcome State Fault Refusal := .next (s.takeKind .setSlotEnable)

/-- SET_PLAN_PARAMS taken (R41, R123). -/
def execSetPlanParams (s : State) : Host.Outcome State Fault Refusal := .next (s.takeKind .setPlanParams)

/-- SET_TRANSMIT taken (R41, R118). -/
def execSetTransmit (s : State) : Host.Outcome State Fault Refusal := .next (s.takeKind .setTransmit)

/-- LOAD_PRESET taken (R47). -/
def execLoadPreset (s : State) : Host.Outcome State Fault Refusal := .next (s.takeKind .loadPreset)

/-- CLEAR_LOCKOUT taken (R131). -/
def execClearLockout (s : State) : Host.Outcome State Fault Refusal := .next (s.takeKind .clearLockout)

end Sys2Proof.Machine
end

