-- ==== Sys2Proof/Machine/TimerEvents.lean ====
section
/-! DEFINITION. The expiries of timers, and the change of the protection level. An expiry acts while its timer runs; a stopped
timer does not expire (notes/assumptions/2.md). -/

namespace Sys2Proof.Machine

/-- The hold-off of slot k expires: a deferred switch is taken to the preferred path and the timer starts again; with the mark
clear nothing further happens (R80). -/
def State.expireHoldOff (s : State) (k : SlotIx) : State :=
  let x := s.slot k
  let stopped := { x.sel with holdOff := none }
  match x.sel.switchPending, x.preferred with
  | true, some n => s.applySelection k (stopped.take n s.wide.holdOff)
  | _, _ => s.putSlot k { x with sel := stopped }

/-- A step event of slot k: the step moves, the share follows, and a slot that reaches OFF leaves the counting set (R92, R98,
R111). -/
def State.rampStepEvent (s : State) (k : SlotIx) : State :=
  let t := s.modSlot k fun x => { x with ramp := x.ramp.advance s.wide.rampStep }.formShare
  if (s.slot k).transmitting && !(t.slot k).transmitting then t.govern.afterOff else t

/-- HOLD_OFF_EXPIRY (R80). -/
def execHoldOffExpiry (k : SlotIx) (s : State) : Host.Outcome State Fault Refusal :=
  .next (if (s.slot k).sel.holdOff.isSome then s.expireHoldOff k else s)

/-- STEP_EVENT (R92). -/
def execStepEvent (k : SlotIx) (s : State) : Host.Outcome State Fault Refusal :=
  .next (if (s.slot k).ramp.timer.isSome then s.rampStepEvent k else s)

/-- PROTECTION_LEVEL_CHANGE (R117): lines that leave the decoded level as it was are no event; while a device reset is held the
lines alone move, since the level is taken at its end (R115). -/
def execProtectionLevelChange (hi lo : Bool) (s : State) : Host.Outcome State Fault Refusal :=
  .next
    (if s.resetHeld || protectionOf hi lo == s.out.level then s.setLines hi lo
    else (s.setLines hi lo).changeLevel (protectionOf hi lo))

/-- WARM_UP_EXPIRY (R119). -/
def execWarmUpExpiry (s : State) : Host.Outcome State Fault Refusal :=
  .next (if s.out.state = .warmUp ∧ s.out.warmUp.isSome then s.enterOnAir else s)

/-- QUIET_EXPIRY (R123). -/
def execQuietExpiry (s : State) : Host.Outcome State Fault Refusal :=
  .next (if s.out.quiet.isSome then s.quietExpired else s)

/-- TRIP_HISTORY_DEPARTURE (R130): the oldest entry leaves, and nothing else moves. -/
def execTripHistoryDeparture (s : State) : Host.Outcome State Fault Refusal :=
  .next { s with out := { s.out with trips := s.out.trips.tail } }

/-- SILENCE_EXPIRY (R158). -/
def execSilenceExpiry (p : Port) (s : State) : Host.Outcome State Fault Refusal :=
  .next (if (s.port p).silenceTimer.isSome then s.silence p else s)

end Sys2Proof.Machine
end

