-- ==== Sys2Proof/Machine/UrgentTakings.lean ====
section
/-! DEFINITION. The takings of the urgent commands by the blocks that own them (R153). A command that does not stand in the
port's urgent register is not taken (notes/assumptions/6.md). -/

namespace Sys2Proof.Machine

/-- HOLD_OUTPUT taken: the issuing port joins the hold set (R127). -/
def State.takeHold (s : State) (p : Port) : State :=
  if (s.port p).urgent = some .holdOutput then (s.releaseUrgent p).setHold p true else s

/-- RELEASE_OUTPUT taken: the issuing port leaves the hold set (R127). -/
def State.takeRelease (s : State) (p : Port) : State :=
  if (s.port p).urgent = some .releaseOutput then (s.releaseUrgent p).setHold p false else s

/-- PURGE_CHANGES taken (R32). -/
def State.takePurge (s : State) (p : Port) : State :=
  if (s.port p).urgent = some .purgeChanges then (s.releaseUrgent p).purge p else s

/-- PORT_CLEAR taken, with the selector that the register holds (R155). -/
def State.takeClear (s : State) (p : Port) : State :=
  match (s.port p).urgent with
  | some (.portClear sel) => (s.releaseUrgent p).clearPort p sel
  | _ => s

/-- HOLD_OUTPUT (R127). -/
def execHoldOutput (p : Port) (s : State) : Host.Outcome State Fault Refusal := .next (s.takeHold p)

/-- RELEASE_OUTPUT (R127). -/
def execReleaseOutput (p : Port) (s : State) : Host.Outcome State Fault Refusal := .next (s.takeRelease p)

/-- PURGE_CHANGES (R32). -/
def execPurgeChanges (p : Port) (s : State) : Host.Outcome State Fault Refusal := .next (s.takePurge p)

/-- PORT_CLEAR (R155). -/
def execPortClear (p : Port) (s : State) : Host.Outcome State Fault Refusal := .next (s.takeClear p)

end Sys2Proof.Machine
end

