-- ==== Sys2Proof/Machine/Dispatch.lean ====
section
/-! DEFINITION. The meaning of each command: one arm per row of spec/opcode_table.json. -/

namespace Sys2Proof.Machine

/-- The effect of a command on everything but the queue. -/
def exec (i : Instr) (s : State) : Host.Outcome State Fault Refusal :=
  match i with
  | .deviceReset => Sys2Proof.Machine.execDeviceReset s
  | .endOfReset hi lo => Sys2Proof.Machine.execEndOfReset hi lo s
  | .goodMarker f => Sys2Proof.Machine.execGoodMarker f s
  | .badMarker f => Sys2Proof.Machine.execBadMarker f s
  | .missingMarker f => Sys2Proof.Machine.execMissingMarker f s
  | .monitorInterval v => Sys2Proof.Machine.execMonitorInterval v s
  | .holdOffExpiry k => Sys2Proof.Machine.execHoldOffExpiry k s
  | .stepEvent k => Sys2Proof.Machine.execStepEvent k s
  | .protectionLevelChange hi lo => Sys2Proof.Machine.execProtectionLevelChange hi lo s
  | .warmUpExpiry => Sys2Proof.Machine.execWarmUpExpiry s
  | .quietExpiry => Sys2Proof.Machine.execQuietExpiry s
  | .tripHistoryDeparture => Sys2Proof.Machine.execTripHistoryDeparture s
  | .assignSlot => Sys2Proof.Machine.execAssignSlot s
  | .releaseSlot => Sys2Proof.Machine.execReleaseSlot s
  | .setPower => Sys2Proof.Machine.execSetPower s
  | .setThresholds => Sys2Proof.Machine.execSetThresholds s
  | .setSlotEnable => Sys2Proof.Machine.execSetSlotEnable s
  | .setPlanParams => Sys2Proof.Machine.execSetPlanParams s
  | .setTransmit => Sys2Proof.Machine.execSetTransmit s
  | .loadPreset => Sys2Proof.Machine.execLoadPreset s
  | .clearLockout => Sys2Proof.Machine.execClearLockout s
  | .selectPeriodStart p => Sys2Proof.Machine.execSelectPeriodStart p s
  | .selectPeriodEnd p w => Sys2Proof.Machine.execSelectPeriodEnd p w s
  | .unknown p c b => Sys2Proof.Machine.execUnknown p c b s
  | .submitChange x => Sys2Proof.Machine.execSubmitChange x s
  | .readSlot p b => Sys2Proof.Machine.execReadSlot p b s
  | .readPlan p b => Sys2Proof.Machine.execReadPlan p b s
  | .readTransmitter p b => Sys2Proof.Machine.execReadTransmitter p b s
  | .readFeeds p b => Sys2Proof.Machine.execReadFeeds p b s
  | .readOutcomes p b => Sys2Proof.Machine.execReadOutcomes p b s
  | .readEvents p b => Sys2Proof.Machine.execReadEvents p b s
  | .readStore p b => Sys2Proof.Machine.execReadStore p b s
  | .setEventMask p b => Sys2Proof.Machine.execSetEventMask p b s
  | .setPeerFlags p b => Sys2Proof.Machine.execSetPeerFlags p b s
  | .setSilence p b => Sys2Proof.Machine.execSetSilence p b s
  | .scanRange p b => Sys2Proof.Machine.execScanRange p b s
  | .scanNext p b => Sys2Proof.Machine.execScanNext p b s
  | .savePreset p b => Sys2Proof.Machine.execSavePreset p b s
  | .erasePreset p b => Sys2Proof.Machine.execErasePreset p b s
  | .setBoot p b => Sys2Proof.Machine.execSetBoot p b s
  | .endOfErasing => Sys2Proof.Machine.execEndOfErasing s
  | .endOfProgramming v => Sys2Proof.Machine.execEndOfProgramming v s
  | .eraseCompletion => Sys2Proof.Machine.execEraseCompletion s
  | .bootSelectorWriteCompletion => Sys2Proof.Machine.execBootSelectorWriteCompletion s
  | .readCompletion => Sys2Proof.Machine.execReadCompletion s
  | .holdOutput p => Sys2Proof.Machine.execHoldOutput p s
  | .releaseOutput p => Sys2Proof.Machine.execReleaseOutput p s
  | .purgeChanges p => Sys2Proof.Machine.execPurgeChanges p s
  | .portClear p => Sys2Proof.Machine.execPortClear p s
  | .silenceExpiry p => Sys2Proof.Machine.execSilenceExpiry p s

end Sys2Proof.Machine
end

