-- ==== Sys2Proof/Machine/Idle.lean ====
section
/-! DEFINITION. What the part does on an empty queue: an event of its own that is due, or one millisecond passes
(notes/assumptions/1.md). Where several are possible a free value picks. -/

namespace Sys2Proof.Machine

/-- The command that is the taking of a kind (Table 2.1.1). -/
def takingOf : ChangeKind → Instr
  | .assignSlot => .assignSlot
  | .releaseSlot => .releaseSlot
  | .setPower => .setPower
  | .setThresholds => .setThresholds
  | .setSlotEnable => .setSlotEnable
  | .setPlanParams => .setPlanParams
  | .setTransmit => .setTransmit
  | .loadPreset => .loadPreset
  | .clearLockout => .clearLockout

/-- What the links deliver at a monitor interval that the part runs by itself: free values (R62, R81). -/
def freeLevels (fresh : Nat) : Levels :=
  Vector.ofFn fun k =>
    ⟨Config.linkLevel fresh k.val false, Config.linkLevel fresh k.val true, Config.fallbackFirst fresh k.val⟩

/-- The end of the phase in progress (Table 8.2.1); the verification of a save is a free value (R137). -/
def Activity.endsWith (a : Activity) (fresh : Nat) : List Instr :=
  match a with
  | .idle => []
  | .savingErase _ _ _ => [.endOfErasing]
  | .savingProgram _ _ _ => [.endOfProgramming (Config.verifyPasses fresh)]
  | .erasing _ _ => [.eraseCompletion]
  | .writingBoot _ _ => [.bootSelectorWriteCompletion]
  | .reading _ => [.readCompletion]

/-- The hold-off expiry and the step event of a slot that are due (R79, R92). -/
def Slot.dueEvents (x : Slot) (k : SlotIx) : List Instr :=
  (if x.sel.holdOff = some 0 then [.holdOffExpiry k] else []) ++ (if x.ramp.timer = some 0 then [.stepEvent k] else [])

/-- The silence expiry of a port that is due (R157). -/
def PortState.dueEvents (q : PortState) (p : Port) : List Instr :=
  match q.silenceTimer with
  | some elapsed => if q.silenceTime * 1000 ≤ elapsed then [.silenceExpiry p] else []
  | none => []

/-- The quiet expiry that is due (R123). -/
def State.dueQuiet (s : State) : List Instr :=
  match s.out.quiet with
  | some elapsed => if s.wide.quietTime * 1000 ≤ elapsed then [.quietExpiry] else []
  | none => []

/-- The departure of the oldest trip that is due (R130). -/
def State.dueDeparture (s : State) : List Instr :=
  match s.out.trips with
  | t :: _ => if t + tripWindowMs ≤ s.now then [.tripHistoryDeparture] else []
  | [] => []

/-- The taking that is due (R36). -/
def State.dueTakings (s : State) : List Instr :=
  match s.dueTaking with
  | some e => [takingOf e.change.kind]
  | none => []

/-- The events of the part that are due now: time does not pass before they have come. -/
def State.dueEvents (s : State) : List Instr :=
  s.dueTakings ++ (slotIndices.flatMap fun k => (s.slot k).dueEvents k) ++
    (if s.out.warmUp = some 0 then [.warmUpExpiry] else []) ++ s.dueQuiet ++ s.dueDeparture ++
    (if s.store.phaseLeft = 0 then s.store.activity.endsWith s.fresh else []) ++
    (if s.monitorIn = 0 then [.monitorInterval (freeLevels s.fresh)] else []) ++
    (s.port .a).dueEvents .a ++ (s.port .b).dueEvents .b

/-- The taking of a port's pending urgent command, which may come now or later: its delay is not bounded (R153). -/
def PortState.pendingTaking (q : PortState) (p : Port) : List Instr :=
  match q.urgent with
  | some .holdOutput => [.holdOutput p]
  | some .releaseOutput => [.releaseOutput p]
  | some .purgeChanges => [.purgeChanges p]
  | some (.portClear _) => [.portClear p]
  | none => []

/-- The events that may come at this moment: those due, and the takings of urgent commands. -/
def State.possibleEvents (s : State) : List Instr :=
  s.dueEvents ++ (s.port .a).pendingTaking .a ++ (s.port .b).pendingTaking .b

/-- A remaining time after one more millisecond. -/
def countDown (t : Option Nat) : Option Nat := t.map fun n => n - 1

/-- An elapsed time after one more millisecond. -/
def countUp (t : Option Nat) : Option Nat := t.map fun n => n + 1

/-- One millisecond passes: every running timer advances (R61, R79, R92, R119, R123, R157, Table 8.2.1). -/
def State.tick (s : State) : State :=
  { s.mapSlots fun _ x =>
      { x with sel := { x.sel with holdOff := countDown x.sel.holdOff }, ramp := { x.ramp with timer := countDown x.ramp.timer } } with
    monitorIn := s.monitorIn - 1
    out := { s.out with warmUp := countDown s.out.warmUp, quiet := countUp s.out.quiet }
    store := { s.store with phaseLeft := s.store.phaseLeft - 1 }
    ports :=
      ⟨{ s.ports.a with silenceTimer := countUp s.ports.a.silenceTimer },
        { s.ports.b with silenceTimer := countUp s.ports.b.silenceTimer }⟩
    now := s.now + 1 }

/-- The number of things that may happen now: each possible event, and one millisecond passing where no event is due. -/
def State.choices (s : State) : Nat := s.possibleEvents.length + if s.dueEvents.isEmpty then 1 else 0

/-- Which of them happens: the only one, or the one that a free value picks. -/
def State.choice (s : State) : Nat := if s.choices = 1 then 0 else Config.idleChoice s.fresh % s.choices

/-- The part on an empty queue. While a device reset is held it stands still. -/
def idle (s : State) : Host.Outcome State Fault Refusal :=
  if s.resetHeld then .next s
  else
    match s.possibleEvents[s.choice]? with
    | some c => exec c { s with fresh := s.fresh + 1 }
    | none => .next { s.tick with fresh := s.fresh + 1 }

end Sys2Proof.Machine
end

