-- ==== Sys2Proof/Safety.lean ====
section
/-! DEFINITION. What counts as a safe state: the laws that the manual states of the whole part, as predicates over the state. -/

namespace Sys2Proof.Machine

/-- Law of the Output Controller: PA_EN is on exactly when the transmitter is in WARMUP, ON_AIR or CLOSING (R116). -/
def State.AmplifierLaw (s : State) : Prop := s.out.paEn = s.out.state.amplifierOn

/-- The steps and the timer that each transmission state can hold (Table 5.1.1). -/
def Ramp.Lawful (r : Ramp) : Prop :=
  (r.state = .off → r.step = 0 ∧ r.timer = none) ∧
    (r.state = .rampUp → r.step ≤ 15 ∧ r.timer.isSome = true) ∧
    (r.state = .on → r.step = 16 ∧ r.timer = none) ∧
    (r.state = .rampDown → 1 ≤ r.step ∧ r.step ≤ 16 ∧ r.timer.isSome = true)

/-- Law of the Ramp Controller, on steps (R95, Table 5.1.1). -/
def State.RampLaw (s : State) : Prop := ∀ k, (s.slot k).ramp.Lawful

/-- A slot moves up or is ON exactly while its on-demand condition holds (R88 to R91). -/
def State.DemandLaw (s : State) : Prop :=
  ∀ k, ((s.slot k).ramp.state = .rampUp ∨ (s.slot k).ramp.state = .on) ↔ s.onDemand k = true

/-- Law of the Ramp Controller: while the hold set is non-empty, no slot is in RAMP_UP or ON (R95). -/
def State.HoldLaw (s : State) : Prop :=
  s.holdEmpty = false → ∀ k, (s.slot k).ramp.state ≠ .rampUp ∧ (s.slot k).ramp.state ≠ .on

/-- Law of the Output Controller: a slot whose transmission state is not OFF exists only in ON_AIR or CLOSING (R116). -/
def State.OnAirLaw (s : State) : Prop :=
  ∀ k, (s.slot k).transmitting = true → s.out.state = .onAir ∨ ∃ t, s.out.state = .closing t

/-- The governor's values are the ones that R103, R104 and R111 form from its inputs. -/
def State.GovernorLaw (s : State) : Prop :=
  s.bEff = effectiveBudget s.wide.budget s.out.level ∧
    ∀ k, (s.slot k).grant = grantOf s.bEff s.demand (s.slot k) ∧
      (s.slot k).share = shareOf (s.slot k).grant (s.slot k).ramp.step

/-- Law of the Level Governor: the grants never exceed the effective budget, no grant its slot's request, an OFF slot has grant
0 (R105). -/
def State.GrantLaw (s : State) : Prop :=
  s.grantSum ≤ s.bEff ∧
    ∀ k, (s.slot k).grant ≤ (s.slot k).record.power ∧ ((s.slot k).ramp.state = .off → (s.slot k).grant = 0)

/-- Law of the Change Queue: at most 8 entries, and no ticket held twice among them and the in-flight change (R27). -/
def State.QueueLaw (s : State) : Prop := s.changes.entries.length ≤ 8 ∧ s.heldTickets.Nodup

/-- The bounds of a port's lists. -/
def PortState.Bounded (q : PortState) : Prop :=
  q.cmdQueue.length ≤ 4 ∧ q.rspQueue.length ≤ 4 ∧ q.outcomes.length ≤ 8

/-- Law of the Control Ports: at most 4 frames in each queue, at most 8 records in the outcome list (R152). -/
def State.PortLaw (s : State) : Prop := ∀ p, (s.port p).Bounded

/-- Law of the Channel Monitor: every level lies within -128..0 dBFS (R62). -/
def State.LevelLaw (s : State) : Prop := ∀ k n, -128 ≤ ((s.slot k).path n).level ∧ ((s.slot k).path n).level ≤ 0

/-- The selection of a slot agrees with its two qualities (R71, R73, R78): LOST exactly while no path is preferred; with a source,
the mark is set exactly while the in-use path differs from the preferred one, and then the hold-off timer runs. -/
def Slot.SelectionLawful (x : Slot) : Prop :=
  (x.sel.source = .lost → x.preferred = none ∧ x.sel.switchPending = false ∧ x.sel.holdOff = none) ∧
    ∀ u, x.sel.source = sourceOf u →
      x.sel.lastPath = u ∧ x.preferred.isSome = true ∧ (x.sel.switchPending = true ↔ x.preferred ≠ some u) ∧
        (x.sel.switchPending = true → x.sel.holdOff.isSome = true)

/-- The selection law for every slot. -/
def State.SelectionLaw (s : State) : Prop := ∀ k, (s.slot k).SelectionLawful

/-- Law of the Path Selector: ON_FALLBACK only with a fallback path, and only while that path is GOOD or the slot is
switch-pending (R78). -/
def State.FallbackLaw (s : State) : Prop :=
  ∀ k, (s.slot k).sel.source = .onFallback →
    (s.slot k).record.fallback.isSome = true ∧
      ((s.slot k).fallback.quality = .good ∨ (s.slot k).sel.switchPending = true)

/-- A record that is fit for the plan on its own: EMPTY, or of a known width and within the band (R10, R14). -/
def SlotRecord.Fits (r : SlotRecord) : Prop := r.assigned = true → widthKnown r.width = true ∧ bandTest r = true

/-- Sixteen records that form a valid plan (section 1.4): each fits, and no two assigned ones conflict (R15). -/
def PlanValid (f : SlotIx → SlotRecord) : Prop :=
  (∀ k, (f k).Fits) ∧
    ∀ i j, i ≠ j → (f i).assigned = true → (f j).assigned = true → conflict (f i) (f j) = false

/-- Law of the Channel Plan, on the applied plan (R16). -/
def State.PlanLaw (s : State) : Prop := PlanValid fun k => (s.slot k).record

/-- A plan image is valid: it was written from an applied plan (R16). -/
def PlanImage.Valid (img : PlanImage) : Prop := PlanValid fun k => img.records[k.val]

/-- Every image the store holds is valid: in a VALID preset, and in the snapshot of a save (R16, R137). -/
def Store.ImagesValid (st : Store) : Prop :=
  (∀ n img, st.preset n = .valid img → img.Valid) ∧
    ∀ n img p, st.activity = .savingErase n img p ∨ st.activity = .savingProgram n img p → img.Valid

/-- The record of a drained ASSIGN_SLOT has passed the tests against the plan that stands (R16, R44). -/
def State.DrainValid (s : State) : Prop :=
  ∀ e k r, s.engine = .draining e → e.change = .assignSlot k r →
    widthKnown r.width = true ∧ bandTest r = true ∧ conflictTest k r s = true

/-- What every step keeps of the plan, the store's images and the in-flight change together, from which R16 follows. -/
def State.ValidityLaw (s : State) : Prop := s.PlanLaw ∧ s.store.ImagesValid ∧ s.DrainValid

/-- The trip history holds at most 3 entries, and 3 only in LOCKOUT (R115, R129). -/
def State.TripLaw (s : State) : Prop :=
  s.out.trips.length ≤ 3 ∧ (s.out.trips.length = 3 → s.out.state = .lockout)

/-- Law of back-pressure: a command waits only while the response queue is full (R151). -/
def State.WaitingLaw (s : State) : Prop := ∀ p, (s.port p).cmdQueue = [] ∨ 4 ≤ (s.port p).rspQueue.length

/-- The content of a slot is PILOT exactly while it is LOST with the loss action PILOT (R84). -/
def State.ContentLaw (s : State) : Prop :=
  ∀ k, (s.slot k).sel.content = .pilot ↔ (s.slot k).sel.source = .lost ∧ (s.slot k).record.lossAction = .pilot

/-- The value of an EMPTY slot in every block: the plan's rest values and words 0, both paths BAD at level -128, LOST and never
in use, OFF at step 0, granted nothing, unmarked (Table 1.3.2, R2, R60, R70, R87, R101). -/
def Slot.Rests (x : Slot) : Prop :=
  x =
    ⟨⟨false, false, ⟨.a, 0⟩, none, 0, 0, 0, -90, 1, 1, 1, .mute, false⟩, ⟨0, 0, 0⟩, ⟨-128, .bad, 0⟩, ⟨-128, .bad, 0⟩,
      ⟨.lost, .primary, none, false, .program⟩, ⟨.off, 0, none⟩, 0, 0, false⟩

/-- An image holds the rest values for every slot that it leaves EMPTY (R8, R134). -/
def PlanImage.Rests (img : PlanImage) : Prop :=
  ∀ k : SlotIx, img.records[k.val].assigned = false → img.records[k.val] = SlotRecord.rest

/-- What is not there rests: an EMPTY slot and an absent path hold the rest values, every tuning word is that of the record, and
so it is in every image that the store holds (R8, R19, R46, R60, R67, R172). -/
def State.RestLaw (s : State) : Prop :=
  (∀ k, (s.slot k).record.assigned = false → (s.slot k).Rests) ∧
    (∀ k, (s.slot k).record.fallback = none → (s.slot k).fallback = ⟨-128, .bad, 0⟩ ∧ (s.slot k).words.fallback = 0) ∧
    (∀ k, (s.slot k).words = wordsOf (s.slot k).record) ∧
    (∀ n img, s.store.preset n = .valid img → img.Rests) ∧
    ∀ n img p, s.store.activity = .savingErase n img p ∨ s.store.activity = .savingProgram n img p → img.Rests

/-- The part in a boot: it holds the empty plan at generation 0, OFF_AIR; the store is IDLE until the end of the reset, and then
reads the VALID preset that the boot selector names. A reset that is held is one of a boot (R34, R35, R143, R144, R146). -/
def State.BootLaw (s : State) : Prop :=
  (s.resetHeld = true → s.engine = .booting) ∧
    (s.engine = .booting →
      (∀ k, (s.slot k).record.assigned = false) ∧ s.wide = ⟨1000, 8, 2, 60, 5, false⟩ ∧ s.generation = 0 ∧
        s.out.state = .offAir ∧ s.store.pendingRead = none ∧ s.store.lastResult = none ∧ s.store.bootResult = .pending ∧
        (s.resetHeld = true → s.store.activity = .idle) ∧
        (s.resetHeld = false →
          ∃ n img, s.store.boot = some n ∧ s.store.preset n = .valid img ∧ s.store.activity = .reading n))

/-- The retuning marks: only the slot that an ASSIGN_SLOT or RELEASE_SLOT drains, or every assigned slot from the taking of a
LOAD_PRESET to its completion. A drain lasts while a marked slot ramps down, and in LOADING every slot is OFF (R43, R44, R47). -/
def State.DrainLaw (s : State) : Prop :=
  (s.engine = .booting ∨ s.engine = .idle → ∀ k, (s.slot k).retuning = false) ∧
    (∀ e, s.engine = .draining e →
      (∃ k, ((∃ r, e.change = .assignSlot k r) ∨ e.change = .releaseSlot k) ∧ (s.slot k).record.assigned = true ∧
          (s.slot k).ramp.state = .rampDown ∧ ∀ j, (s.slot j).retuning = true ↔ j = k) ∨
        (∃ n, e.change = .loadPreset n) ∧ (∃ k, (s.slot k).ramp.state = .rampDown) ∧
          ∀ j, ((s.slot j).retuning = true ↔ (s.slot j).record.assigned = true) ∧
            ((s.slot j).ramp.state = .off ∨ (s.slot j).ramp.state = .rampDown)) ∧
    ∀ e, s.engine = .loading e →
      (∃ n, e.change = .loadPreset n) ∧
        ∀ j, ((s.slot j).retuning = true ↔ (s.slot j).record.assigned = true) ∧ (s.slot j).ramp.state = .off

/-- The read of a LOAD_PRESET: from the taking to the completion its preset stays VALID and no save or erase of it is in
progress; in LOADING the store reads it or keeps its read pending; and the store reads for no one else but a boot (R48, R50,
R139). -/
def State.ReadLaw (s : State) : Prop :=
  (∀ e n, s.engine = .draining e → e.change = .loadPreset n →
    (∃ img, s.store.preset n = .valid img) ∧ s.store.activity.preset ≠ some n) ∧
    (∀ e n, s.engine = .loading e → e.change = .loadPreset n →
      (∃ img, s.store.preset n = .valid img) ∧
        (s.store.activity = .reading n ∨
          s.store.pendingRead = some n ∧ s.store.activity ≠ .idle ∧ s.store.activity.preset ≠ some n)) ∧
    (∀ n, s.store.activity = .reading n → s.engine = .booting ∨ ∃ e, s.engine = .loading e ∧ e.change = .loadPreset n) ∧
    ∀ n, s.store.pendingRead = some n → ∃ e, s.engine = .loading e ∧ e.change = .loadPreset n

/-! ## Words of the statements -/

/-- A port that answers a delivered command at once: nothing waits in its command queue and its response queue has room (R151). -/
def State.Ready (s : State) (p : Port) : Prop := (s.port p).cmdQueue = [] ∧ (s.port p).rspQueue.length < 4

/-- The state with one more response at the young end of a port's response queue (R151). -/
def State.answered (s : State) (p : Port) (code : ResponseCode) (command : Byte) (payload : List Byte) : State :=
  s.modPort p fun q => { q with rspQueue := q.rspQueue ++ [⟨code, command, payload⟩] }

/-- The port, the code and the body of a queued command that one port delivers (Table 11.1.3); none for every other row and for
two submissions together. -/
def queuedForm : Instr → Option (Port × Byte × Body)
  | .unknown p code b => some (p, code, b)
  | .submitChange (.single p b) => some (p, 0x10, b)
  | .readSlot p b => some (p, 0x20, b)
  | .readPlan p b => some (p, 0x21, b)
  | .readTransmitter p b => some (p, 0x22, b)
  | .readFeeds p b => some (p, 0x23, b)
  | .readOutcomes p b => some (p, 0x24, b)
  | .readEvents p b => some (p, 0x25, b)
  | .readStore p b => some (p, 0x26, b)
  | .setEventMask p b => some (p, 0x30, b)
  | .setPeerFlags p b => some (p, 0x31, b)
  | .setSilence p b => some (p, 0x32, b)
  | .scanRange p b => some (p, 0x33, b)
  | .scanNext p b => some (p, 0x34, b)
  | .savePreset p b => some (p, 0x40, b)
  | .erasePreset p b => some (p, 0x41, b)
  | .setBoot p b => some (p, 0x42, b)
  | _ => none

/-- The entry that the Plan Engine would take now carries the change c, is not stale, and passes its tests (R36 to R39): the
engine is IDLE, the queue hands the entry over, and no test refuses the clamped change. -/
def State.Passes (s : State) (e : Entry) : Prop :=
  s.engine = .idle ∧ s.changes.next = some e ∧ s.isStale e = false ∧ s.testChange (clampChange e.change) = none

/-- The state without the entry that has been taken (R31). -/
def State.without (s : State) (e : Entry) : State :=
  { s with changes := { s.changes with entries := s.changes.entries.erase e } }

/-- What every application leaves beside the plan (R41): the generation has risen by one, the origin port's list has the APPLIED
record with it and its OUTCOME latch is set, the other port's PLAN latch is set, and the entry is no longer queued. -/
def Applied (s t : State) (e : Entry) : Prop :=
  t.generation = s.generation + 1 ∧
    (t.port e.origin).outcomes =
      pushOutcome (s.port e.origin).outcomes ⟨e.ticket, e.change.kind, e.change.argument, .applied, some (s.generation + 1)⟩ ∧
    (t.port (otherPort e.origin)).outcomes = (s.port (otherPort e.origin)).outcomes ∧
    (t.port e.origin).latched .outcome = true ∧ (t.port (otherPort e.origin)).latched .plan = true

/-- The plan as it stands is the same: the plan-wide fields and every record (R1). -/
def SamePlan (s t : State) : Prop := t.wide = s.wide ∧ ∀ k, (t.slot k).record = (s.slot k).record

/-- One measurement at a level on a path, by Table 3.2.1: the path state v before it and w after it (R62 to R64). -/
def Judged (r : SlotRecord) (level : Int) (v w : PathState) : Prop :=
  w.level = level ∧
    (v.quality = .bad → r.tLoss + r.hyst ≤ level → v.dwell + 1 < r.restoreDwell → w.quality = .bad ∧ w.dwell = v.dwell + 1) ∧
    (v.quality = .bad → r.tLoss + r.hyst ≤ level → r.restoreDwell ≤ v.dwell + 1 → w.quality = .good ∧ w.dwell = 0) ∧
    (v.quality = .bad → level < r.tLoss + r.hyst → w.quality = .bad ∧ w.dwell = 0) ∧
    (v.quality = .good → level < r.tLoss → v.dwell + 1 < r.lossDwell → w.quality = .good ∧ w.dwell = v.dwell + 1) ∧
    (v.quality = .good → level < r.tLoss → r.lossDwell ≤ v.dwell + 1 → w.quality = .bad ∧ w.dwell = 0) ∧
    (v.quality = .good → r.tLoss ≤ level → w.quality = .good ∧ w.dwell = 0)

/-- The level that a delivered level reads on a feed: clamped to -128..0, and -128 while the receiver is in SEARCH (R62). -/
def ReadAs (s : State) (f : Feed) (delivered level : Int) : Prop :=
  ((s.receiver f).link = .search → level = -128) ∧
    ((s.receiver f).link = .locked →
      (delivered < -128 → level = -128) ∧ (0 < delivered → level = 0) ∧ (-128 ≤ delivered → delivered ≤ 0 → level = delivered))

/-- The terms of the on-demand condition that are the slot's own (R88, terms 3 to 5). -/
def Slot.Wants (x : Slot) : Prop :=
  x.record.assigned = true ∧ x.record.enabled = true ∧ x.retuning = false ∧
    (x.sel.source ≠ .lost ∨ x.record.lossAction = .pilot)

/-- The move of a ramp whose on-demand condition has become false (R91): rs is the ramp_step in force. -/
def TurnedDown (rs : Nat) (r r' : Ramp) : Prop :=
  (r.state = .on → r' = ⟨.rampDown, 16, some rs⟩) ∧
    (r.state = .rampUp → r.step ≠ 0 → r' = ⟨.rampDown, r.step, r.timer⟩) ∧
    (r.state = .rampUp → r.step = 0 → r' = ⟨.off, 0, none⟩) ∧
    (r.state = .rampDown → r' = r) ∧ (r.state = .off → r' = r)

/-- The move of a ramp whose on-demand condition has become true (R90): rs is the ramp_step in force. -/
def TurnedUp (rs : Nat) (r r' : Ramp) : Prop :=
  (r.state = .off → r' = ⟨.rampUp, 0, some rs⟩) ∧
    (r.state = .rampDown → r.step < 16 → r' = ⟨.rampUp, r.step, r.timer⟩) ∧
    (r.state = .rampDown → 16 ≤ r.step → r' = ⟨.on, 16, none⟩) ∧
    (r.state = .rampUp → r' = r) ∧ (r.state = .on → r' = r)

/-- The warm-up time that a code names, in ms (Table 1.2.2). -/
def WarmUpTime (code ms : Nat) : Prop :=
  (code = 0 → ms = 500) ∧ (code = 1 → ms = 1000) ∧ (code = 2 → ms = 2000) ∧ (code = 3 → ms = 4000) ∧ (code = 4 → ms = 8000)

/-- An offset's interval lies in the band (R14). -/
def InsideBand (offset : Int) (width : Nat) : Prop := -40000 ≤ offset - halfWidth width ∧ offset + halfWidth width ≤ 40000

/-- Every interval of a record lies in the band (R14). -/
def IntervalsInBand (r : SlotRecord) : Prop :=
  InsideBand r.primary.offset r.width ∧ (∀ f, r.fallback = some f → InsideBand f.offset r.width) ∧ InsideBand r.output r.width

/-- The refusals of Table 2.4.2, each for the first failing test. -/
def State.Refuses (s : State) : Change → OutcomeCode → Prop
  | .assignSlot _ r, .badWidth => 3 < r.width
  | .assignSlot _ r, .outOfBand => r.width ≤ 3 ∧ ¬ IntervalsInBand r
  | .assignSlot k r, .overlap =>
    r.width ≤ 3 ∧ IntervalsInBand r ∧
      ∃ j, j ≠ k ∧ (s.slot j).record.assigned = true ∧
        ((r.output - (s.slot j).record.output).natAbs : Int) < halfWidth r.width + halfWidth (s.slot j).record.width
  | .releaseSlot k, .emptySlot => (s.slot k).record.assigned = false
  | .setPower k _, .emptySlot => (s.slot k).record.assigned = false
  | .setThresholds k _ _ _ _, .emptySlot => (s.slot k).record.assigned = false
  | .setSlotEnable k _, .emptySlot => (s.slot k).record.assigned = false
  | .loadPreset n, .presetInvalid => ∀ img, s.store.preset n ≠ .valid img
  | .loadPreset n, .storeBusy => (∃ img, s.store.preset n = .valid img) ∧ s.store.activity.preset = some n
  | .clearLockout, .wrongState => s.out.state ≠ .lockout
  | _, _ => False

/-- The bytes of an urgent frame in its right form, with filler after it (Table 11.1.3, R168). -/
def UrgentBytes (w : List Byte) (u : Urgent) : Prop :=
  ∃ filler,
    (w = 0x80 :: 0x00 :: filler ∧ u = .holdOutput) ∨ (w = 0x81 :: 0x00 :: filler ∧ u = .releaseOutput) ∨
      (w = 0x82 :: 0x00 :: filler ∧ u = .purgeChanges) ∨ (w = 0x83 :: 0x01 :: 0x01 :: filler ∧ u = .portClear .commands) ∨
      (w = 0x83 :: 0x01 :: 0x02 :: filler ∧ u = .portClear .responses) ∨
      (w = 0x83 :: 0x01 :: 0x03 :: filler ∧ u = .portClear .both)

/-- A queued frame of a known code whose form Table 11.1.3 does not permit (R170). -/
def FormFault (c : Command) (b : Body) : Prop :=
  b.payload.length < b.declared.toNat ∨
    (c ≠ .submitChange ∧ payloadLength c ≠ some b.declared.toNat) ∨
    (c = .readSlot ∧ 15 < (byteAt b.payload 0).toNat) ∨
    (c = .scanRange ∧ (15 < (byteAt b.payload 0).toNat ∨ 15 < (byteAt b.payload 1).toNat)) ∨
    ((c = .savePreset ∨ c = .erasePreset) ∧ 3 < (byteAt b.payload 0).toNat) ∨
    (c = .setBoot ∧ 3 < (byteAt b.payload 0).toNat ∧ byteAt b.payload 0 ≠ 0xFF) ∨
    c = .holdOutput ∨ c = .releaseOutput ∨ c = .purgeChanges ∨ c = .portClear

/-- The structural faults of a SUBMIT_CHANGE payload (R25, R171). -/
def StructuralFault (w : List Byte) : Prop :=
  (∀ kind, kindByte kind ≠ byteAt w 0) ∨
    (∃ kind, kindByte kind = byteAt w 0 ∧
      ((w.length ≠ argumentBytes kind + 2 ∧ w.length ≠ argumentBytes kind + 4) ∨
        ((kind = .assignSlot ∨ kind = .releaseSlot ∨ kind = .setPower ∨ kind = .setThresholds ∨ kind = .setSlotEnable) ∧
          15 < (byteAt w 2).toNat) ∨
        (kind = .loadPreset ∧ 3 < (byteAt w 2).toNat) ∨
        (kind = .assignSlot ∧
          (1 < (byteAt w 4).toNat ∨ 1 < (byteAt w 5).toNat ∨
            ((byteAt w 3).getLsbD 1 = true ∧ 1 < (byteAt w 10).toNat)))))

/-- A feed code (Table 11.1.5). -/
def FeedByte (b : Byte) (f : Feed) : Prop := (b = 0 ∧ f = .a) ∨ (b = 1 ∧ f = .b)

/-- A loss-action code (Table 11.1.5). -/
def LossByte (b : Byte) (a : LossAction) : Prop := (b = 0 ∧ a = .mute) ∨ (b = 1 ∧ a = .pilot)

/-- A signed offset, most significant byte first (R168). -/
def OffsetBytes (b : List Byte) (offset : Int) : Prop :=
  ∃ b3 b2 b1 b0 : Byte, b = [b3, b2, b1, b0] ∧ offset = (b3 ++ b2 ++ b1 ++ b0 : Word32).toInt

/-- The 23 bytes of a submitted record (Table 11.1.5): without flags bit 1 it has no fallback path, whatever bytes 7 to 11 hold,
and it is assigned by its kind (R171). -/
def RecordBytes (b : List Byte) (r : SlotRecord) : Prop :=
  ∃ (flags loss primaryFeed fallbackFeed width p1 p0 tLoss hyst lossDwell restoreDwell : Byte)
    (primary fallback output : List Byte),
    b = [flags, loss, primaryFeed] ++ primary ++ [fallbackFeed] ++ fallback ++ output ++
      [width, p1, p0, tLoss, hyst, lossDwell, restoreDwell] ∧
    r.assigned = true ∧ r.enabled = flags.getLsbD 0 ∧ r.wakes = flags.getLsbD 2 ∧ LossByte loss r.lossAction ∧
    FeedByte primaryFeed r.primary.feed ∧ OffsetBytes primary r.primary.offset ∧ fallback.length = 4 ∧
    (flags.getLsbD 1 = false → r.fallback = none) ∧
    (flags.getLsbD 1 = true →
      ∃ path, r.fallback = some path ∧ FeedByte fallbackFeed path.feed ∧ OffsetBytes fallback path.offset) ∧
    OffsetBytes output r.output ∧ r.width = width.toNat ∧ r.power = (p1 ++ p0 : Word16).toNat ∧ r.tLoss = tLoss.toInt ∧
    r.hyst = hyst.toNat ∧ r.lossDwell = lossDwell.toNat ∧ r.restoreDwell = restoreDwell.toNat

/-- The kind code and the argument bytes of a change (Tables 11.1.6 and 11.1.7). -/
def ArgumentBytes (kind : Byte) (args : List Byte) : Change → Prop
  | .assignSlot k r => kind = 1 ∧ ∃ b, args = BitVec.ofNat 8 k.val :: b ∧ RecordBytes b r
  | .releaseSlot k => kind = 2 ∧ args = [BitVec.ofNat 8 k.val]
  | .setPower k p => kind = 3 ∧ ∃ p1 p0 : Byte, args = [BitVec.ofNat 8 k.val, p1, p0] ∧ p = (p1 ++ p0 : Word16).toNat
  | .setThresholds k tLoss hyst lossDwell restoreDwell =>
    kind = 4 ∧ ∃ t h l d : Byte, args = [BitVec.ofNat 8 k.val, t, h, l, d] ∧ tLoss = t.toInt ∧ hyst = h.toNat ∧
      lossDwell = l.toNat ∧ restoreDwell = d.toNat
  | .setSlotEnable k v => kind = 5 ∧ ∃ b : Byte, args = [BitVec.ofNat 8 k.val, b] ∧ (v = false ↔ b = 0)
  | .setPlanParams budget rampStep warmUpCode quietTime holdOff =>
    kind = 6 ∧ ∃ b1 b0 r w q1 q0 h : Byte, args = [b1, b0, r, w, q1, q0, h] ∧ budget = (b1 ++ b0 : Word16).toNat ∧
      rampStep = r.toNat ∧ warmUpCode = w.toNat ∧ quietTime = (q1 ++ q0 : Word16).toNat ∧ holdOff = h.toNat
  | .setTransmit v => kind = 7 ∧ ∃ b : Byte, args = [b] ∧ (v = false ↔ b = 0)
  | .loadPreset n => kind = 8 ∧ args = [BitVec.ofNat 8 n.val]
  | .clearLockout => kind = 9 ∧ args = []

/-- The class bit (Table 11.1.6); bits 1 to 7 are not examined (R171). -/
def ClassBit (b : Byte) (c : ChangeClass) : Prop :=
  (b.getLsbD 0 = true → c = .expedited) ∧ (b.getLsbD 0 = false → c = .normal)

/-- The bytes after the arguments: none, or the two of an expected generation (Table 11.1.6, R171). -/
def GenerationBytes (tail : List Byte) (g : Option Word16) : Prop :=
  (tail = [] ∧ g = none) ∨ ∃ g1 g0 : Byte, tail = [g1, g0] ∧ g = some (g1 ++ g0)

/-- The preferred path of a slot (R71). -/
def Slot.Prefers (x : Slot) : Option PathName → Prop
  | some .primary => x.primary.quality = .good
  | some .fallback => x.primary.quality = .bad ∧ x.record.fallback.isSome = true ∧ x.fallback.quality = .good
  | none => x.primary.quality = .bad ∧ (x.record.fallback = none ∨ x.fallback.quality = .bad)

/-- A hold-off timer that has just been started at the hold-off in force, in seconds (R79). -/
def HoldOffStarted (holdOff : Nat) (timer : Option Nat) : Prop :=
  (holdOff = 0 → timer = none) ∧ (holdOff ≠ 0 → timer = some (holdOff * 1000))

/-- A path put in use, with the hold-off started and no switch pending (R72, R74, R75). -/
def PutInUse (holdOff : Nat) (n : PathName) (w : Selector) : Prop :=
  w.source = sourceOf n ∧ w.lastPath = n ∧ w.switchPending = false ∧ HoldOffStarted holdOff w.holdOff

/-- The move of a selection at a notice of a measured quality, by the preferred path after it (Table 4.3.1, R72 to R75, R78),
content apart. -/
def Noticed (holdOff : Nat) (preferred : Option PathName) (v w : Selector) : Prop :=
  (∀ n, v.source = .lost → preferred = some n → PutInUse holdOff n w) ∧
    (v.source = .lost → preferred = none → w = { v with content := w.content }) ∧
    (v.source ≠ .lost → preferred = none → w = ⟨.lost, v.lastPath, none, false, w.content⟩) ∧
    (∀ n, v.source = sourceOf n → preferred = some n → w = { v with switchPending := false, content := w.content }) ∧
    (∀ u n, u ≠ n → v.source = sourceOf u → preferred = some n → v.holdOff = none → PutInUse holdOff n w) ∧
    ∀ u n, u ≠ n → v.source = sourceOf u → preferred = some n → v.holdOff ≠ none →
      w = { v with switchPending := true, content := w.content }

/-- What one measurement of a slot does to its selection: a quality that stays is no notice, and one that changes is (R66, R81,
R84). -/
def Heard (holdOff : Nat) (x y : Slot) : Prop :=
  (y.primary.quality = x.primary.quality ∧ y.fallback.quality = x.fallback.quality → y.sel = x.sel) ∧
    (¬ (y.primary.quality = x.primary.quality ∧ y.fallback.quality = x.fallback.quality) →
      (∀ preferred, y.Prefers preferred → Noticed holdOff preferred x.sel y.sel) ∧
        (y.sel.content = .pilot ↔ y.sel.source = .lost ∧ y.record.lossAction = .pilot))

/-- The slot gains its source, having had none (R83). -/
def Slot.Gains (x y : Slot) : Prop := x.sel.source = .lost ∧ y.sel.source ≠ .lost

/-- The slot's source goes or comes; a switch between paths is neither (R83). -/
def Slot.GainsOrLoses (x y : Slot) : Prop := x.Gains y ∨ y.Gains x

/-- What a gain or loss of source does to a ramp with the shared terms of the on-demand condition standing (R89 to R91): rs is the
ramp_step in force. -/
def RampHeard (rs : Nat) (airOpen : Prop) (x y : Slot) : Prop :=
  (¬ x.GainsOrLoses y → y.ramp = x.ramp) ∧
    (x.GainsOrLoses y → airOpen ∧ y.Wants → TurnedUp rs x.ramp y.ramp) ∧
    (x.GainsOrLoses y → ¬ (airOpen ∧ y.Wants) → TurnedDown rs x.ramp y.ramp)

/-- The quiet condition as the slots, the hold set and the plan stand (R122). -/
def State.Quiet (s : State) : Prop :=
  s.out.state = .onAir ∧ s.wide.quietTime ≠ 0 ∧ s.holdEmpty = true ∧
    ∀ k, (s.slot k).record.assigned = true → (s.slot k).record.enabled = true → (s.slot k).sel.source = .lost

/-- The nearer bound of a range, or the value itself within it (R38). -/
def NearestIn (lo hi n m : Int) : Prop := (n < lo → m = lo) ∧ (hi < n → m = hi) ∧ (lo ≤ n → n ≤ hi → m = n)

/-- A submitted record r with its five clamped fields, as c has them (R11, R12, R38). -/
def ClampedRecord (r c : SlotRecord) : Prop :=
  c =
      { r with
        power := c.power, tLoss := c.tLoss, hyst := c.hyst, lossDwell := c.lossDwell, restoreDwell := c.restoreDwell } ∧
    NearestIn 0 1000 r.power c.power ∧ NearestIn (-90) (-20) r.tLoss c.tLoss ∧ NearestIn 1 15 r.hyst c.hyst ∧
    NearestIn 1 15 r.lossDwell c.lossDwell ∧ NearestIn 1 63 r.restoreDwell c.restoreDwell

/-- A slot that a record has just been applied to: the words of the record, both paths BAD, LOST, nothing pending, unmarked
(R19, R46, R67, R85). -/
def StartedAfresh (r : SlotRecord) (x : Slot) : Prop :=
  x.record = r ∧ x.words = wordsOf r ∧ x.primary = ⟨-128, .bad, 0⟩ ∧ x.fallback = ⟨-128, .bad, 0⟩ ∧
    x.sel = ⟨.lost, .primary, none, false, if r.lossAction = .pilot then .pilot else .program⟩ ∧ x.retuning = false

/-- What shows both ports that a slot's source state changed (R83, R162). -/
def State.ShowsSource (t : State) (k : SlotIx) : Prop :=
  ∀ p, (t.port p).latched .source = true ∧ (t.port p).changed.getLsbD k.val = true

/-- A change of transmitter state, of a closing's target among them, sets TX_STATE on both ports, and nothing else does (R125,
R132). -/
def State.ShowsTransmitter (s t : State) : Prop :=
  (t.out.state ≠ s.out.state → ∀ p, (t.port p).latched .txState = true) ∧
    (t.out.state = s.out.state → ∀ p, (t.port p).latched .txState = (s.port p).latched .txState)

/-- The store asked for the read of a preset: it starts at an IDLE store, and is kept pending otherwise (R139). -/
def AskedForRead (s t : State) (n : PresetIx) : Prop :=
  (s.store.activity = .idle → t.store.activity = .reading n ∧ t.store.phaseLeft = 5) ∧
    (s.store.activity ≠ .idle → t.store = { s.store with pendingRead := some n })

/-- The effective budget of a level (R103). -/
def State.BudgetOfLevel (t : State) : Prop :=
  (t.out.level = .normal → t.bEff = t.wide.budget) ∧ (t.out.level = .foldback → t.bEff = t.wide.budget / 2) ∧
    (t.out.level = .trip → t.bEff = 0)

/-- WARMUP entered, with its timer started at the plan's warm-up code, or TRIPPED, unrecorded, under TRIP (R119, R120). -/
def State.WarmUpEntered (s t : State) : Prop :=
  (s.out.level ≠ .trip →
    t.out.state = .warmUp ∧ t.out.paEn = true ∧ ∃ ms, t.out.warmUp = some ms ∧ WarmUpTime t.wide.warmUpCode ms) ∧
    (s.out.level = .trip → t.out.state = .tripped ∧ t.out.paEn = false ∧ t.out.warmUp = none)

/-- The bytes of a period that spell a frame: its code, its declared length and the payload it keeps, then filler (R149, R168). -/
def FrameBytes (w : List Byte) (f : Frame) : Prop :=
  f.body.payload.length ≤ f.body.declared.toNat ∧ f.body.payload.length ≤ 40 ∧
    ∃ filler, w = f.code :: f.body.declared :: (f.body.payload ++ filler) ∧
      (filler = [] ∨ f.body.payload.length = f.body.declared.toNat ∨ f.body.payload.length = 40)

/-- What the end of a select period does to a port last of all (R149, items 5 and 6, R150), where the period discarded nothing. -/
def PortState.closed (q : PortState) (o : Outgoing) : PortState :=
  { q with
    overrun := q.overrun && !o.summary.overrun
    urgentLost := q.urgentLost && !o.summary.urgentLost
    period := none
    silenceTimer := if q.silenceTime = 0 then none else some 0 }

end Sys2Proof.Machine
end

