-- ==== Sys2Proof/WellFormed.lean ====
section
/-! DEFINITION. Which commands can stand on the wire: the checks a command of the table meets before the machine acts on
it. The machine itself is total and acts on any term. -/

namespace Sys2Proof

/-- The codes of Table 11.1.3. -/
def commandCodes : List Byte :=
  [0x00, 0x10, 0x20, 0x21, 0x22, 0x23, 0x24, 0x25, 0x26, 0x30, 0x31, 0x32, 0x33, 0x34, 0x40, 0x41, 0x42, 0x80, 0x81,
    0x82, 0x83]

/-- A frame keeps no more payload bytes than it declares, and none beyond its 42nd byte (R149, R168). -/
def Body.wellFormed (b : Body) : Bool :=
  decide (b.payload.length ≤ b.declared.toNat) && decide (b.payload.length ≤ 40)

/-- Both bodies of a submission are frames (R168). -/
def Submission.wellFormed : Submission → Bool
  | .single _ b => b.wellFormed
  | .together a b => a.wellFormed && b.wellFormed

/-- The check of a command: a queued command's frame is a frame, and UNKNOWN bears no code of the table (R170). -/
def Instr.wellFormed : Instr → Bool
  | .unknown _ code b => !(commandCodes.contains code) && b.wellFormed
  | .submitChange sub => sub.wellFormed
  | .readSlot _ b => b.wellFormed
  | .readPlan _ b => b.wellFormed
  | .readTransmitter _ b => b.wellFormed
  | .readFeeds _ b => b.wellFormed
  | .readOutcomes _ b => b.wellFormed
  | .readEvents _ b => b.wellFormed
  | .readStore _ b => b.wellFormed
  | .setEventMask _ b => b.wellFormed
  | .setPeerFlags _ b => b.wellFormed
  | .setSilence _ b => b.wellFormed
  | .scanRange _ b => b.wellFormed
  | .scanNext _ b => b.wellFormed
  | .savePreset _ b => b.wellFormed
  | .erasePreset _ b => b.wellFormed
  | .setBoot _ b => b.wellFormed
  | .deviceReset => true
  | .endOfReset _ _ => true
  | .goodMarker _ => true
  | .badMarker _ => true
  | .missingMarker _ => true
  | .monitorInterval _ => true
  | .holdOffExpiry _ => true
  | .stepEvent _ => true
  | .protectionLevelChange _ _ => true
  | .warmUpExpiry => true
  | .quietExpiry => true
  | .tripHistoryDeparture => true
  | .assignSlot => true
  | .releaseSlot => true
  | .setPower => true
  | .setThresholds => true
  | .setSlotEnable => true
  | .setPlanParams => true
  | .setTransmit => true
  | .loadPreset => true
  | .clearLockout => true
  | .selectPeriodStart _ => true
  | .selectPeriodEnd _ _ => true
  | .endOfErasing => true
  | .endOfProgramming _ => true
  | .eraseCompletion => true
  | .bootSelectorWriteCompletion => true
  | .readCompletion => true
  | .holdOutput _ => true
  | .releaseOutput _ => true
  | .purgeChanges _ => true
  | .portClear _ => true
  | .silenceExpiry _ => true

end Sys2Proof
end

