-- ==== Sys2Proof/Certificates/Slice0/Obligations.lean ====
section
/-! DEFINITION. The statements about the ZT16 for the provers. Each docstring names the rules that its statement rests on. -/

open Sys2Proof Sys2Proof.Machine

/-! ## The machine -/

/-- A step with a command at the front of the queue is that command's meaning on the queue's rest. -/
def Obligations.StepRunsTheFrontCommand : Prop :=
  ∀ (c : Instr) (rest : List Instr) (s : State), step { s with pending := c :: rest } = exec c { s with pending := rest }

/-- On an empty queue the part stands still while a reset is held, runs the one event that is due, and otherwise lets one
millisecond pass, in which every running timer advances and nothing else moves. The model's choice: notes/assumptions/1.md. -/
def Obligations.EmptyQueueLetsTheDueEventComeOrTimePass : Prop :=
  ∀ s : State, s.pending = [] →
    (s.resetHeld = true → step s = .next s) ∧
      (s.resetHeld = false → ∀ c, s.possibleEvents = [c] → s.dueEvents = [c] → step s = exec c { s with fresh := s.fresh + 1 }) ∧
      (s.resetHeld = false → s.possibleEvents = [] →
        ∃ t, step s = .next t ∧ t.now = s.now + 1 ∧ t.fresh = s.fresh + 1 ∧ t.monitorIn = s.monitorIn - 1 ∧
          t.store = { s.store with phaseLeft := s.store.phaseLeft - 1 } ∧
          t.out = { s.out with warmUp := s.out.warmUp.map (· - 1), quiet := s.out.quiet.map (· + 1) } ∧
          (∀ p, t.port p = { s.port p with silenceTimer := (s.port p).silenceTimer.map (· + 1) }) ∧
          (∀ k, t.slot k =
            { s.slot k with
              sel := { (s.slot k).sel with holdOff := (s.slot k).sel.holdOff.map (· - 1) }
              ramp := { (s.slot k).ramp with timer := (s.slot k).ramp.timer.map (· - 1) } }) ∧
          t.pending = [] ∧ t.wide = s.wide ∧ t.generation = s.generation ∧ t.changes = s.changes ∧ t.engine = s.engine ∧
          t.feeds = s.feeds ∧ t.bEff = s.bEff ∧ t.protHi = s.protHi ∧ t.protLo = s.protLo ∧ t.resetHeld = false)

/-- Every command answers with a next state, in every state, and leaves the queue of commands alone: the manual names nothing
that stops the part. -/
def Obligations.NoCommandStopsTheMachine : Prop :=
  ∀ (c : Instr) (s : State), ∃ t, exec c s = .next t ∧ t.pending = s.pending

/-! ## Reset and start-up -/

/-- DEVICE_RESET puts every block at the value its chapter gives (R2, R34, R35, R54, R60, R70, R87, R101, R115, R134, R147,
R161), cuts the store operation in progress, leaving the non-volatile state as Table 8.4.1 gives it (R142), and leaves the
PROT lines, which are the amplifier's, and the queue of commands. -/
def Obligations.DeviceResetRestsEveryBlockAndSettlesTheStore : Prop :=
  ∀ s : State, ∃ t, exec .deviceReset s = .next t ∧
    t.wide = ⟨1000, 8, 2, 60, 5, false⟩ ∧ t.generation = 0 ∧
    (∀ k, (t.slot k).record = ⟨false, false, ⟨.a, 0⟩, none, 0, 0, 0, -90, 1, 1, 1, .mute, false⟩ ∧
      (t.slot k).words = ⟨0, 0, 0⟩ ∧ (t.slot k).primary = ⟨-128, .bad, 0⟩ ∧ (t.slot k).fallback = ⟨-128, .bad, 0⟩ ∧
      (t.slot k).sel = ⟨.lost, .primary, none, false, .program⟩ ∧ (t.slot k).ramp = ⟨.off, 0, none⟩ ∧
      (t.slot k).grant = 0 ∧ (t.slot k).share = 0 ∧ (t.slot k).retuning = false) ∧
    t.changes = ⟨[], 0, .b⟩ ∧ t.engine = .booting ∧ (∀ f, t.receiver f = ⟨.search, 0, 0⟩) ∧
    t.out.state = .offAir ∧ t.out.paEn = false ∧ t.out.hold = ⟨false, false⟩ ∧ t.out.trips = [] ∧ t.out.warmUp = none ∧
    t.out.quiet = none ∧ t.store.activity = .idle ∧ t.store.pendingRead = none ∧ t.store.lastResult = none ∧
    t.store.bootResult = .pending ∧ t.store.toggle = ⟨false, false⟩ ∧
    (∀ p, t.port p = ⟨[], [], none, false, false, [], 0, 0, 0, false, false, false, 0, none, 0, 15, 0, none⟩) ∧
    (∀ n snapshot p,
      s.store.activity = .savingErase n snapshot p ∨ s.store.activity = .savingProgram n snapshot p ∨
          s.store.activity = .erasing n p →
        t.store.preset n = .corrupt ∧ (∀ m, m ≠ n → t.store.preset m = s.store.preset m) ∧ t.store.boot = s.store.boot) ∧
    (∀ sel p, s.store.activity = .writingBoot sel p → t.store.boot = none ∧ ∀ m, t.store.preset m = s.store.preset m) ∧
    (∀ n, s.store.activity = .idle ∨ s.store.activity = .reading n →
      t.store.boot = s.store.boot ∧ ∀ m, t.store.preset m = s.store.preset m) ∧
    t.protHi = s.protHi ∧ t.protLo = s.protLo ∧ t.pending = s.pending

/-- END_OF_RESET takes the protection level from the PROT lines, forms the effective budget, sets no PROTECTION latch, starts the
first monitor interval, and decides the boot by Table 8.5.1 (R61, R101, R115, R143, R145), from what every state of a held reset
has (`State.BootLaw`): an idle store and a plan with tx_enable no. -/
def Obligations.EndOfResetDecidesTheBoot : Prop :=
  ∀ (s : State) (hi lo : Bool), s.resetHeld = true → s.store.activity = .idle → s.wide.txEnable = false →
    ∃ t, exec (.endOfReset hi lo) s = .next t ∧ t.resetHeld = false ∧ t.monitorIn = 10 ∧ t.protHi = hi ∧ t.protLo = lo ∧
      (hi = true → t.out.level = .trip ∧ t.bEff = 0) ∧
      (hi = false → lo = true → t.out.level = .foldback ∧ t.bEff = s.wide.budget / 2) ∧
      (hi = false → lo = false → t.out.level = .normal ∧ t.bEff = s.wide.budget) ∧
      (∀ p, (t.port p).latched .protection = (s.port p).latched .protection) ∧
      t.out.state = s.out.state ∧ t.out.paEn = s.out.paEn ∧ t.out.trips = s.out.trips ∧ t.generation = s.generation ∧
      SamePlan s t ∧
      (s.store.boot = none → t.engine = .idle ∧ t.store.bootResult = .none ∧ ∀ p, (t.port p).latched .boot = true) ∧
      (∀ n, s.store.boot = some n → s.store.preset n = .empty →
        t.engine = .idle ∧ t.store.bootResult = .empty ∧ ∀ p, (t.port p).latched .boot = true) ∧
      (∀ n, s.store.boot = some n → s.store.preset n = .corrupt →
        t.engine = .idle ∧ t.store.bootResult = .corrupt ∧ ∀ p, (t.port p).latched .boot = true) ∧
      (∀ n img, s.store.boot = some n → s.store.preset n = .valid img →
        t.engine = s.engine ∧ t.store.activity = .reading n ∧ t.store.phaseLeft = 5 ∧
          t.store.bootResult = s.store.bootResult ∧ ∀ p, t.port p = s.port p)

/-- READ_COMPLETION of the boot read writes the image, starts every slot afresh, raises the generation, ends the boot with LOADED
and the BOOT latches, places no outcome and sets no PLAN latch, and starts the transmitter where the image asks for it, which
TX_STATE shows (R144, R145, R120, R132). -/
def Obligations.BootReadLoadsTheImage : Prop :=
  ∀ (s : State) (n : PresetIx) (img : PlanImage), s.store.activity = .reading n → s.store.preset n = .valid img →
    s.engine = .booting → s.out.state = .offAir →
    ∃ t, exec .readCompletion s = .next t ∧ t.wide = img.wide ∧ t.generation = s.generation + 1 ∧
      (∀ k, StartedAfresh img.records[k.val] (t.slot k)) ∧ t.BudgetOfLevel ∧ t.out.level = s.out.level ∧ t.changes = s.changes ∧
      t.engine = .idle ∧ t.store.activity = .idle ∧ t.store.pendingRead = none ∧ t.store.bootResult = .loaded ∧
      t.store.lastResult = s.store.lastResult ∧ (∀ m, t.store.preset m = s.store.preset m) ∧
      (∀ p, (t.port p).latched .boot = true ∧ (t.port p).outcomes = (s.port p).outcomes ∧
        (t.port p).latched .plan = (s.port p).latched .plan) ∧
      s.ShowsTransmitter t ∧
      (img.wide.txEnable = false → t.out.state = .offAir) ∧
      (img.wide.txEnable = true → s.out.level ≠ .trip →
        t.out.state = .warmUp ∧ t.out.paEn = true ∧ ∃ ms, t.out.warmUp = some ms ∧ WarmUpTime img.wide.warmUpCode ms) ∧
      (img.wide.txEnable = true → s.out.level = .trip → t.out.state = .tripped ∧ t.out.paEn = false)

/-- READ_COMPLETION of a LOAD_PRESET replaces the whole plan by the image, clears every retuning mark, starts every slot afresh,
raises the generation, records APPLIED for the origin port, sets the other port's PLAN latch, and the engine enters IDLE
(R49, R139). The effective budget is formed from the image's budget, an enabled PILOT slot of the image enters RAMP_UP where the
transmitter is ON_AIR after it, and no other slot that is OFF moves. The quiet timer is measured against the image's quiet time,
and a tx_enable that the load changes moves the transmitter by R118 (R103, R118, R122, R123, R132, R133). -/
def Obligations.PresetReadCompletesTheLoad : Prop :=
  ∀ (s : State) (n : PresetIx) (img : PlanImage) (e : Entry), s.store.activity = .reading n → s.store.preset n = .valid img →
    s.engine = .loading e →
    ∃ t, exec .readCompletion s = .next t ∧ t.wide = img.wide ∧ Applied s t e ∧
      (∀ k, StartedAfresh img.records[k.val] (t.slot k)) ∧ (∀ k, (s.slot k).sel.source ≠ .lost → t.ShowsSource k) ∧
      t.engine = .idle ∧ t.changes = s.changes ∧ t.store.activity = .idle ∧ t.store.pendingRead = none ∧
      t.store.lastResult = s.store.lastResult ∧ (∀ m, t.store.preset m = s.store.preset m) ∧
      t.BudgetOfLevel ∧ t.out.level = s.out.level ∧ t.out.hold = s.out.hold ∧ t.out.trips = s.out.trips ∧
      (∀ k, (s.slot k).ramp = ⟨.off, 0, none⟩ →
        (t.out.state = .onAir ∧ s.holdEmpty = true ∧ (t.slot k).Wants → (t.slot k).ramp = ⟨.rampUp, 0, some img.wide.rampStep⟩) ∧
          (¬ (t.out.state = .onAir ∧ s.holdEmpty = true ∧ (t.slot k).Wants) → (t.slot k).ramp = ⟨.off, 0, none⟩)) ∧
      (t.out.quiet.isSome = true ↔ t.Quiet) ∧
      s.ShowsTransmitter t ∧
      (s.wide.txEnable = img.wide.txEnable → s.out.state ≠ .onAir →
        t.out.state = s.out.state ∧ t.out.paEn = s.out.paEn ∧ t.out.warmUp = s.out.warmUp) ∧
      (s.wide.txEnable = img.wide.txEnable → s.out.state = .onAir →
        (s.holdEmpty = true ∧ img.wide.quietTime ≠ 0 ∧ img.wide.quietTime * 1000 ≤ s.out.quiet.getD 0 →
          ((∀ k, (t.slot k).ramp.state = .off) → t.out.state = .standby ∧ t.out.paEn = false) ∧
            ((∃ k, (t.slot k).ramp.state ≠ .off) → t.out.state = .closing .standby ∧ t.out.paEn = true)) ∧
        (¬ (s.holdEmpty = true ∧ img.wide.quietTime ≠ 0 ∧ img.wide.quietTime * 1000 ≤ s.out.quiet.getD 0) →
          t.out.state = .onAir ∧ t.out.paEn = s.out.paEn)) ∧
      (s.wide.txEnable = false → img.wide.txEnable = true →
        (s.out.state = .offAir → s.WarmUpEntered t) ∧
          (s.out.state = .closing .offAir → t.out.state = .onAir ∧ t.out.paEn = true ∧ t.out.warmUp = none) ∧
          (s.out.state = .tripped ∨ s.out.state = .lockout → t.out.state = s.out.state)) ∧
      (s.wide.txEnable = true → img.wide.txEnable = false →
        (s.out.state = .warmUp → t.out.state = .offAir ∧ t.out.paEn = false ∧ t.out.warmUp = none) ∧
          (s.out.state = .onAir →
            ((∀ k, (t.slot k).ramp.state = .off) → t.out.state = .offAir ∧ t.out.paEn = false) ∧
              ((∃ k, (t.slot k).ramp.state ≠ .off) → t.out.state = .closing .offAir ∧ t.out.paEn = true)) ∧
          (s.out.state = .closing .standby → t.out.state = .closing .offAir ∧ t.out.paEn = true) ∧
          (s.out.state = .standby → t.out.state = .offAir ∧ t.out.paEn = false) ∧
          (s.out.state = .tripped ∨ s.out.state = .lockout → t.out.state = s.out.state))

/-- The laws that the statements about every step keep hold right after reset. The effective budget and the level stand there by the
model's choice: notes/assumptions/8.md. -/
def Obligations.ResetSatisfiesEveryLaw : Prop :=
  State.reset.AmplifierLaw ∧ State.reset.RampLaw ∧ State.reset.DemandLaw ∧ State.reset.HoldLaw ∧ State.reset.OnAirLaw ∧
    State.reset.GovernorLaw ∧ State.reset.GrantLaw ∧ State.reset.QueueLaw ∧ State.reset.PortLaw ∧ State.reset.WaitingLaw ∧
    State.reset.LevelLaw ∧ State.reset.SelectionLaw ∧ State.reset.FallbackLaw ∧ State.reset.ContentLaw ∧
    State.reset.ValidityLaw ∧ State.reset.TripLaw ∧ State.reset.RestLaw ∧ State.reset.BootLaw ∧ State.reset.DrainLaw ∧
    State.reset.ReadLaw

/-! ## The Channel Plan -/

/-- Every step that is no device reset, the passing of a millisecond included, either leaves the generation and then every record
and every plan-wide field as they were, or raises the generation by one, mod 65536, and then it is the application of a change,
whose APPLIED record carries the new generation, or the boot that loads. A device reset sets the generation to 0 (R1, R17, R35,
R41, R144). -/
def Obligations.PlanMovesOnlyWithTheGeneration : Prop :=
  ∀ s t : State, step s = .next t →
    (s.pending.head? = some .deviceReset → t.generation = 0) ∧
      (s.pending.head? ≠ some .deviceReset →
        (t.generation = s.generation ∧ SamePlan s t) ∨
          (t.generation = s.generation + 1 ∧
            ((∃ p r, (t.port p).outcomes = pushOutcome (s.port p).outcomes r ∧ r.code = .applied ∧
                r.generation = some t.generation) ∨
              (s.engine = .booting ∧ t.engine = .idle ∧ t.store.bootResult = .loaded))))

/-- Every step keeps the plan valid (R16): every assigned slot's intervals lie in the band and no two assigned slots conflict,
together with what this rests on, that stored images are valid and that a drained record has passed its tests. -/
def Obligations.EveryStepKeepsThePlanValid : Prop :=
  ∀ s t : State, s.ValidityLaw → step s = .next t → t.ValidityLaw

/-- A tuning word is the nearest integer to the offset times 16777216 over 375, with no tie, odd in the offset, and read modulo
2^32; the output word of a record is that of its output offset, and an input word is that of the negative of the path's offset,
so that the input word of an offset k is the output word of -k; an EMPTY slot and an absent path have the word 0 (R19, R20). -/
def Obligations.TuningWordRoundsToTheNearest : Prop :=
  (∀ k : Int,
    2 * (375 * roundedWord k - k * 16777216).natAbs < 375 ∧ roundedWord (-k) = -roundedWord k ∧
      (tuningWord k).toNat = (roundedWord k % 4294967296).toNat) ∧
  (∀ r : SlotRecord,
    (r.assigned = false → wordsOf r = ⟨0, 0, 0⟩) ∧
      (r.assigned = true →
        (wordsOf r).out = tuningWord r.output ∧ (wordsOf r).primary = tuningWord (-r.primary.offset) ∧
          (∀ path, r.fallback = some path → (wordsOf r).fallback = tuningWord (-path.offset)) ∧
          (r.fallback = none → (wordsOf r).fallback = 0)))

/-! ## The Change Queue -/

/-- SUBMIT_CHANGE delivered in full to a port that answers at once: MALFORMED, QUEUE_FULL, or ACCEPTED with the
first ticket from the counter's value on that is not held, hence the counter's value itself where that is free (R25, R26, R29,
R171); and two submissions that come together are served in the arbiter's order (R29). -/
def Obligations.SubmissionIsAnsweredByTheQueue : Prop :=
  (∀ (s : State) (p : Port) (b : Body), s.Ready p → b.wellFormed = true → b.payload.length = b.declared.toNat →
    (submittedOfPayload b.payload = none →
      exec (.submitChange (.single p b)) s =
        .next ({ s with changes := { s.changes with lastServed := p } }.answered p .malformed 0x10 [])) ∧
    (∀ m, submittedOfPayload b.payload = some m → 8 ≤ s.changes.entries.length →
      exec (.submitChange (.single p b)) s =
        .next ({ s with changes := { s.changes with lastServed := p } }.answered p .queueFull 0x10 [])) ∧
    (∀ m, submittedOfPayload b.payload = some m → s.changes.entries.length < 8 →
      ∃ (n : Nat) (ticket : Byte), n ≤ 8 ∧ ticket = s.changes.counter + BitVec.ofNat 8 n ∧ ticket ∉ s.heldTickets ∧
        (∀ j < n, s.changes.counter + BitVec.ofNat 8 j ∈ s.heldTickets) ∧
        exec (.submitChange (.single p b)) s =
          .next ({ s with
              changes := ⟨s.changes.entries ++ [(⟨ticket, p, m.cls, m.change, m.expected⟩ : Entry)], ticket + 1, p⟩ }.answered
            p .accepted 0x10 [ticket]))) ∧
  (∀ (s t : State) (a b : Body),
    (s.changes.lastServed = .b → exec (.submitChange (.single .a a)) s = .next t →
      exec (.submitChange (.together a b)) s = exec (.submitChange (.single .b b)) t) ∧
    (s.changes.lastServed = .a → exec (.submitChange (.single .b b)) s = .next t →
      exec (.submitChange (.together a b)) s = exec (.submitChange (.single .a a)) t))

/-- The structural faults of R25 and R171, and only they, make a submission malformed; and a sound payload carries the change that
its bytes spell: the kind, the class bit, the arguments of the kind with every field of a record, and the expected generation
where two more bytes follow (R25, R171, Tables 11.1.5 to 11.1.7). -/
def Obligations.StructuralFaultsAreExactlyMalformed : Prop :=
  (∀ w : List Byte, submittedOfPayload w = none ↔ StructuralFault w) ∧
    ∀ (kind cls : Byte) (args tail : List Byte) (m : Submitted), ArgumentBytes kind args m.change → ClassBit cls m.cls →
      GenerationBytes tail m.expected → submittedOfPayload (kind :: cls :: (args ++ tail)) = some m

/-- The queue hands over the oldest EXPEDITED entry, otherwise the oldest NORMAL one, and nothing only when it is empty (R31). -/
def Obligations.QueueHandsOverTheOldestExpedited : Prop :=
  ∀ q : ChangeQueue,
    (q.next = none ↔ q.entries = []) ∧
      ∀ e, q.next = some e →
        (∃ older younger, q.entries = older ++ e :: younger ∧ e.cls = .expedited ∧ ∀ x ∈ older, x.cls = .normal) ∨
          ((∀ x ∈ q.entries, x.cls = .normal) ∧ ∃ younger, q.entries = e :: younger)

/-- Every step keeps the Law of the Change Queue: never more than 8 entries, and no ticket held twice among the entries and the
in-flight change (R27). -/
def Obligations.EveryStepKeepsTheQueueLaw : Prop :=
  ∀ s t : State, s.QueueLaw → step s = .next t → t.QueueLaw

/-- PURGE_CHANGES taken from the urgent register removes the port's queued entries and no other, records each PURGED, oldest first,
sets OUTCOME where one was recorded, and moves neither the plan nor the in-flight change (R32). -/
def Obligations.PurgeRemovesThePortsEntries : Prop :=
  ∀ (s : State) (p : Port), (s.port p).urgent = some .purgeChanges →
    ∃ t, exec (.purgeChanges p) s = .next t ∧
      t.changes = { s.changes with entries := s.changes.entries.filter fun e => e.origin != p } ∧
      (t.port p).urgent = none ∧
      (t.port p).outcomes =
        ((s.changes.entries.filter fun e => e.origin == p).map fun e =>
          (⟨e.ticket, e.change.kind, e.change.argument, .purged, none⟩ : OutcomeRecord)).foldl pushOutcome (s.port p).outcomes ∧
      ((∃ e ∈ s.changes.entries, e.origin = p) → (t.port p).latched .outcome = true) ∧
      ((∀ e ∈ s.changes.entries, e.origin ≠ p) → t.port p = { s.port p with urgent := none }) ∧
      t.port (otherPort p) = s.port (otherPort p) ∧ t.slots = s.slots ∧ t.wide = s.wide ∧ t.generation = s.generation ∧
      t.engine = s.engine ∧ t.out = s.out ∧ t.store = s.store ∧ t.feeds = s.feeds ∧ t.bEff = s.bEff

/-! ## Takings -/

/-- A taking whose expected generation differs from the plan's is refused STALE (R37); one that fails a test of Table 2.4.2 is refused
with the code of the first test that fails (R39). A refusal places the outcome and moves nothing else, and the entry has left
the queue. Nothing else refuses: an entry that is not stale and that no row of the table refuses passes. -/
def Obligations.RefusedTakingMovesNothingElse : Prop :=
  ∀ (s : State) (e : Entry), s.engine = .idle → s.changes.next = some e →
    (∀ g, e.expected = some g → g ≠ s.generation →
      exec (takingOf e.change.kind) s =
        .next ((s.without e).placeOutcome e.origin ⟨e.ticket, e.change.kind, e.change.argument, .stale, none⟩)) ∧
    (∀ code, (e.expected = none ∨ e.expected = some s.generation) → s.Refuses e.change code →
      exec (takingOf e.change.kind) s =
        .next ((s.without e).placeOutcome e.origin ⟨e.ticket, e.change.kind, e.change.argument, code, none⟩)) ∧
    ((e.expected = none ∨ e.expected = some s.generation) → (∀ code, ¬ s.Refuses e.change code) → s.Passes e)

/-- SET_POWER applied writes the slot's p, clamped to 1000, and the grants follow from the demand as it then stands (R11, R41,
R104, R113); no path, selection or ramp and no other record moves. -/
def Obligations.SetPowerWritesTheRequest : Prop :=
  ∀ (s : State) (e : Entry) (k : SlotIx) (p : Nat), s.Passes e → e.change = .setPower k p →
    ∃ t, exec .setPower s = .next t ∧ Applied s t e ∧ t.changes = (s.without e).changes ∧ t.engine = .idle ∧
      (p ≤ 1000 → (t.slot k).record = { (s.slot k).record with power := p }) ∧
      (1000 < p → (t.slot k).record = { (s.slot k).record with power := 1000 }) ∧
      (∀ j, j ≠ k → (t.slot j).record = (s.slot j).record) ∧
      (∀ j, (t.slot j).words = (s.slot j).words ∧ (t.slot j).primary = (s.slot j).primary ∧
        (t.slot j).fallback = (s.slot j).fallback ∧ (t.slot j).sel = (s.slot j).sel ∧ (t.slot j).ramp = (s.slot j).ramp ∧
        (t.slot j).retuning = (s.slot j).retuning) ∧
      (∀ j, (t.slot j).grant = grantOf s.bEff t.demand (t.slot j)) ∧
      t.wide = s.wide ∧ t.out = s.out ∧ t.store = s.store ∧ t.feeds = s.feeds ∧ t.bEff = s.bEff

/-- SET_THRESHOLDS applied writes the four clamped fields and restarts both dwell counters at 0; levels, qualities, the selection,
the ramps and the grants are kept (R12, R41, R68, R86). -/
def Obligations.SetThresholdsRestartsTheCounters : Prop :=
  ∀ (s : State) (e : Entry) (k : SlotIx) (tLoss : Int) (hyst lossDwell restoreDwell : Nat), s.Passes e →
    e.change = .setThresholds k tLoss hyst lossDwell restoreDwell →
    ∃ t r, exec .setThresholds s = .next t ∧ Applied s t e ∧ t.changes = (s.without e).changes ∧ t.engine = .idle ∧
      t.slot k =
        { s.slot k with
          record := r
          primary := { (s.slot k).primary with dwell := 0 }
          fallback := { (s.slot k).fallback with dwell := 0 } } ∧
      r = { (s.slot k).record with
              tLoss := r.tLoss, hyst := r.hyst, lossDwell := r.lossDwell, restoreDwell := r.restoreDwell } ∧
      (-90 ≤ r.tLoss ∧ r.tLoss ≤ -20 ∧ 1 ≤ r.hyst ∧ r.hyst ≤ 15 ∧ 1 ≤ r.lossDwell ∧ r.lossDwell ≤ 15 ∧
        1 ≤ r.restoreDwell ∧ r.restoreDwell ≤ 63) ∧
      (tLoss < -90 → r.tLoss = -90) ∧ (-20 < tLoss → r.tLoss = -20) ∧ (-90 ≤ tLoss → tLoss ≤ -20 → r.tLoss = tLoss) ∧
      (hyst = 0 → r.hyst = 1) ∧ (15 < hyst → r.hyst = 15) ∧ (1 ≤ hyst → hyst ≤ 15 → r.hyst = hyst) ∧
      (lossDwell = 0 → r.lossDwell = 1) ∧ (15 < lossDwell → r.lossDwell = 15) ∧
      (1 ≤ lossDwell → lossDwell ≤ 15 → r.lossDwell = lossDwell) ∧
      (restoreDwell = 0 → r.restoreDwell = 1) ∧ (63 < restoreDwell → r.restoreDwell = 63) ∧
      (1 ≤ restoreDwell → restoreDwell ≤ 63 → r.restoreDwell = restoreDwell) ∧
      (∀ j, j ≠ k → t.slot j = s.slot j) ∧
      t.wide = s.wide ∧ t.out = s.out ∧ t.store = s.store ∧ t.feeds = s.feeds ∧ t.bEff = s.bEff

/-- SET_SLOT_ENABLE applied writes the enabled field and moves the ramp of that slot by its on-demand condition, formed anew, and of
no other slot; enabling a slot marked wakes that has a good source calls the transmitter back from STANDBY or CLOSING(STANDBY),
and in ON_AIR again every slot that wants the air turns up; every other enabling leaves the transmitter where it is. The quiet
timer runs exactly where the quiet condition then holds, and TX_STATE shows a change of transmitter state (R41, R90, R91, R122,
R126, R132, R133). -/
def Obligations.SetSlotEnableMovesTheRamp : Prop :=
  ∀ (s : State) (e : Entry) (k : SlotIx) (v : Bool), s.Passes e → e.change = .setSlotEnable k v →
    ∃ t, exec .setSlotEnable s = .next t ∧ Applied s t e ∧ t.changes = (s.without e).changes ∧ t.engine = .idle ∧
      (t.slot k).record = { (s.slot k).record with enabled := v } ∧
      (∀ j, j ≠ k → (t.slot j).record = (s.slot j).record) ∧
      (∀ j, (t.slot j).words = (s.slot j).words ∧ (t.slot j).primary = (s.slot j).primary ∧
        (t.slot j).fallback = (s.slot j).fallback ∧ (t.slot j).sel = (s.slot j).sel ∧
        (t.slot j).retuning = (s.slot j).retuning) ∧
      (v = false → TurnedDown s.wide.rampStep (s.slot k).ramp (t.slot k).ramp ∧ t.out.state = s.out.state ∧
        ∀ j, j ≠ k → (t.slot j).ramp = (s.slot j).ramp) ∧
      (v = true → s.out.state = .onAir → s.holdEmpty = true → (t.slot k).Wants →
        TurnedUp s.wide.rampStep (s.slot k).ramp (t.slot k).ramp ∧ t.out.state = .onAir) ∧
      (v = true → t.out.state = s.out.state → ¬ (s.out.state = .onAir ∧ s.holdEmpty = true ∧ (t.slot k).Wants) →
        TurnedDown s.wide.rampStep (s.slot k).ramp (t.slot k).ramp) ∧
      (t.out.state = s.out.state → ∀ j, j ≠ k → (t.slot j).ramp = (s.slot j).ramp) ∧
      (s.out.state = .closing .standby → t.out.state = .onAir →
        ∀ j, (s.slot j).ramp.state = .off ∨ (s.slot j).ramp.state = .rampDown →
          (s.holdEmpty = true ∧ (t.slot j).Wants → TurnedUp s.wide.rampStep (s.slot j).ramp (t.slot j).ramp) ∧
            (¬ (s.holdEmpty = true ∧ (t.slot j).Wants) → (t.slot j).ramp = (s.slot j).ramp)) ∧
      (t.out.quiet.isSome = true ↔ t.Quiet) ∧ (∀ ms, t.out.quiet = some ms → ms = s.out.quiet.getD 0) ∧
      (v = true → (s.slot k).record.enabled = false → (s.slot k).record.wakes = true → (s.slot k).sel.source ≠ .lost →
        (s.out.state = .standby → s.WarmUpEntered t) ∧
        (s.out.state = .closing .standby → t.out.state = .onAir ∧ t.out.paEn = true ∧ t.out.warmUp = none)) ∧
      (v = false ∨ (s.slot k).record.enabled = true ∨ (s.slot k).record.wakes = false ∨ (s.slot k).sel.source = .lost ∨
          (s.out.state ≠ .standby ∧ s.out.state ≠ .closing .standby) →
        t.out = { s.out with quiet := t.out.quiet }) ∧
      s.ShowsTransmitter t ∧
      t.wide = s.wide ∧ t.store = s.store ∧ t.feeds = s.feeds ∧ t.bEff = s.bEff ∧ t.out.hold = s.out.hold ∧
      t.out.trips = s.out.trips

/-- SET_PLAN_PARAMS applied writes the five clamped numeric fields, forms the effective budget and the grants from the new budget, and
measures the quiet timer against the new quiet time: where the timer has not reached it, every running step, hold-off and
warm-up timer is left, and where it has, the transmitter closes toward STANDBY, which TX_STATE shows (R3 to R6, R41, R79, R93,
R103, R119, R122, R123, R132). -/
def Obligations.SetPlanParamsWritesTheClampedFields : Prop :=
  ∀ (s : State) (e : Entry) (budget rampStep warmUpCode quietTime holdOff : Nat), s.Passes e →
    e.change = .setPlanParams budget rampStep warmUpCode quietTime holdOff →
    ∃ t, exec .setPlanParams s = .next t ∧ Applied s t e ∧ t.changes = (s.without e).changes ∧ t.engine = .idle ∧
      (budget < 100 → t.wide.budget = 100) ∧ (1000 < budget → t.wide.budget = 1000) ∧
      (100 ≤ budget → budget ≤ 1000 → t.wide.budget = budget) ∧
      (rampStep = 0 → t.wide.rampStep = 1) ∧ (63 < rampStep → t.wide.rampStep = 63) ∧
      (1 ≤ rampStep → rampStep ≤ 63 → t.wide.rampStep = rampStep) ∧
      (4 < warmUpCode → t.wide.warmUpCode = 4) ∧ (warmUpCode ≤ 4 → t.wide.warmUpCode = warmUpCode) ∧
      (quietTime = 0 → t.wide.quietTime = 0) ∧ (1 ≤ quietTime → quietTime < 10 → t.wide.quietTime = 10) ∧
      (600 < quietTime → t.wide.quietTime = 600) ∧ (10 ≤ quietTime → quietTime ≤ 600 → t.wide.quietTime = quietTime) ∧
      (60 < holdOff → t.wide.holdOff = 60) ∧ (holdOff ≤ 60 → t.wide.holdOff = holdOff) ∧
      t.wide.txEnable = s.wide.txEnable ∧
      (∀ k, (t.slot k).record = (s.slot k).record ∧ (t.slot k).words = (s.slot k).words ∧
        (t.slot k).primary = (s.slot k).primary ∧ (t.slot k).fallback = (s.slot k).fallback ∧ (t.slot k).sel = (s.slot k).sel ∧
        (t.slot k).retuning = (s.slot k).retuning) ∧
      (s.out.level = .normal → t.bEff = t.wide.budget) ∧ (s.out.level = .foldback → t.bEff = t.wide.budget / 2) ∧
      (s.out.level = .trip → t.bEff = 0) ∧
      ((t.wide.quietTime = 0 ∨ s.out.quiet.getD 0 < t.wide.quietTime * 1000) →
        (∀ k, (t.slot k).ramp = (s.slot k).ramp ∧ (t.slot k).grant = grantOf t.bEff s.demand (s.slot k)) ∧
          t.out.state = s.out.state ∧ t.out.warmUp = s.out.warmUp ∧
          (t.out.quiet = some (s.out.quiet.getD 0) ∨ t.out.quiet = none) ∧
          (t.out.quiet.isSome = true ↔
            s.out.state = .onAir ∧ t.wide.quietTime ≠ 0 ∧ s.holdEmpty = true ∧
              ∀ k, (s.slot k).record.assigned = true → (s.slot k).record.enabled = true → (s.slot k).sel.source = .lost)) ∧
      (t.wide.quietTime ≠ 0 → t.wide.quietTime * 1000 ≤ s.out.quiet.getD 0 → s.out.state = .onAir → s.holdEmpty = true →
        (∀ k, (s.slot k).record.assigned = true → (s.slot k).record.enabled = true → (s.slot k).sel.source = .lost) →
        t.out.quiet = none ∧ (∀ k, TurnedDown t.wide.rampStep (s.slot k).ramp (t.slot k).ramp) ∧
          ((∀ k, (t.slot k).ramp.state = .off) → t.out.state = .standby ∧ t.out.paEn = false) ∧
          ((∃ k, (t.slot k).ramp.state ≠ .off) → t.out.state = .closing .standby ∧ t.out.paEn = true)) ∧
      s.ShowsTransmitter t ∧ t.store = s.store ∧ t.feeds = s.feeds ∧ t.out.hold = s.out.hold ∧ t.out.trips = s.out.trips ∧ t.out.level = s.out.level

/-- SET_TRANSMIT applied writes tx_enable and, where its value changes, moves the transmitter by R118, which TX_STATE
shows; where it does not, the transmitter stays. A return to ON_AIR from CLOSING(OFF_AIR) turns up every slot that wants the air
and forms the quiet condition afresh (R7, R118, R120, R121, R122, R124, R125, R132). -/
def Obligations.SetTransmitMovesTheTransmitter : Prop :=
  ∀ (s : State) (e : Entry) (v : Bool), s.Passes e → e.change = .setTransmit v →
    ∃ t, exec .setTransmit s = .next t ∧ Applied s t e ∧ t.changes = (s.without e).changes ∧ t.engine = .idle ∧
      t.wide = { s.wide with txEnable := v } ∧
      (∀ k, (t.slot k).record = (s.slot k).record ∧ (t.slot k).words = (s.slot k).words ∧
        (t.slot k).primary = (s.slot k).primary ∧ (t.slot k).fallback = (s.slot k).fallback ∧ (t.slot k).sel = (s.slot k).sel ∧
        (t.slot k).retuning = (s.slot k).retuning) ∧
      (s.wide.txEnable = v → t.out = s.out ∧ t.slots = s.slots) ∧
      (s.wide.txEnable = false → v = true →
        (s.out.state = .offAir → s.out.level ≠ .trip →
          t.out.state = .warmUp ∧ t.out.paEn = true ∧ ∃ ms, t.out.warmUp = some ms ∧ WarmUpTime s.wide.warmUpCode ms) ∧
        (s.out.state = .offAir → s.out.level = .trip → t.out.state = .tripped ∧ t.out.paEn = false ∧ t.out.warmUp = none) ∧
        (s.out.state = .closing .offAir →
          t.out.state = .onAir ∧ t.out.paEn = true ∧ t.out.warmUp = none ∧
          (∀ k, (s.holdEmpty = true ∧ (s.slot k).Wants → TurnedUp s.wide.rampStep (s.slot k).ramp (t.slot k).ramp) ∧
            (¬ (s.holdEmpty = true ∧ (s.slot k).Wants) → TurnedDown s.wide.rampStep (s.slot k).ramp (t.slot k).ramp)) ∧
          (t.out.quiet.isSome = true ↔ t.Quiet) ∧ ∀ ms, t.out.quiet = some ms → ms = s.out.quiet.getD 0) ∧
        (s.out.state = .tripped ∨ s.out.state = .lockout → t.out = s.out)) ∧
      (s.wide.txEnable = true → v = false →
        (s.out.state = .warmUp → t.out.state = .offAir ∧ t.out.paEn = false ∧ t.out.warmUp = none) ∧
        (s.out.state = .onAir →
          ((∀ k, (t.slot k).ramp.state = .off) → t.out.state = .offAir ∧ t.out.paEn = false) ∧
          ((∃ k, (t.slot k).ramp.state ≠ .off) → t.out.state = .closing .offAir ∧ t.out.paEn = true) ∧
          t.out.quiet = none ∧ ∀ k, TurnedDown s.wide.rampStep (s.slot k).ramp (t.slot k).ramp) ∧
        (s.out.state = .closing .standby →
          t.out.state = .closing .offAir ∧ t.out.paEn = true ∧ ∀ k, (t.slot k).ramp = (s.slot k).ramp) ∧
        (s.out.state = .standby → t.out.state = .offAir ∧ t.out.paEn = false) ∧
        (s.out.state = .tripped ∨ s.out.state = .lockout → t.out = s.out)) ∧
      s.ShowsTransmitter t ∧ t.store = s.store ∧ t.feeds = s.feeds ∧ t.bEff = s.bEff ∧ t.out.hold = s.out.hold ∧ t.out.trips = s.out.trips

/-- ASSIGN_SLOT and RELEASE_SLOT taken for a slot that is OFF are applied at once: the whole record, with its five numeric fields
set to the nearer bound of their ranges, and the tuning words are written, the slot starts afresh with both paths BAD and its
source LOST, which the SOURCE latches show where it had a source, and it ramps up only as an enabled PILOT slot on the air. The
quiet timer runs exactly where the quiet condition then holds (R8, R11, R12, R19, R38, R41, R46, R67, R83, R85, R86, R100,
R122). Other slots keep all but their grants and shares. -/
def Obligations.SlotChangeOnAnOffSlotAppliesAtOnce : Prop :=
  ∀ (s : State) (e : Entry) (k : SlotIx), s.Passes e → (s.slot k).ramp.state = .off →
    (∀ r, e.change = .assignSlot k r →
      ∃ t, exec .assignSlot s = .next t ∧ Applied s t e ∧ t.changes = (s.without e).changes ∧ t.engine = .idle ∧
        (∃ c, ClampedRecord r c ∧ StartedAfresh { c with assigned := true } (t.slot k)) ∧
        (t.slot k).words =
          ⟨tuningWord r.output, tuningWord (-r.primary.offset),
            (match r.fallback with
            | some f => tuningWord (-f.offset)
            | none => 0)⟩ ∧
        ((s.slot k).sel.source ≠ .lost → t.ShowsSource k) ∧
        ((s.slot k).sel.source = .lost →
          ∀ p, (t.port p).latched .source = (s.port p).latched .source ∧ (t.port p).changed = (s.port p).changed) ∧
        (t.out.quiet.isSome = true ↔ t.Quiet) ∧ (∀ ms, t.out.quiet = some ms → ms = s.out.quiet.getD 0) ∧
        (s.out.state = .onAir → s.holdEmpty = true → r.enabled = true → r.lossAction = .pilot →
          (t.slot k).ramp = ⟨.rampUp, 0, some s.wide.rampStep⟩) ∧
        (¬ (s.out.state = .onAir ∧ s.holdEmpty = true ∧ r.enabled = true ∧ r.lossAction = .pilot) →
          (t.slot k).ramp = (s.slot k).ramp) ∧
        (∀ j, j ≠ k → t.slot j = { s.slot j with grant := (t.slot j).grant, share := (t.slot j).share }) ∧
        t.wide = s.wide ∧ t.store = s.store ∧ t.feeds = s.feeds ∧ t.bEff = s.bEff ∧ t.out.state = s.out.state ∧
        t.out.paEn = s.out.paEn) ∧
    (e.change = .releaseSlot k →
      ∃ t, exec .releaseSlot s = .next t ∧ Applied s t e ∧ t.changes = (s.without e).changes ∧ t.engine = .idle ∧
        (t.slot k).record = ⟨false, false, ⟨.a, 0⟩, none, 0, 0, 0, -90, 1, 1, 1, .mute, false⟩ ∧
        ((s.slot k).sel.source ≠ .lost → t.ShowsSource k) ∧
        ((s.slot k).sel.source = .lost →
          ∀ p, (t.port p).latched .source = (s.port p).latched .source ∧ (t.port p).changed = (s.port p).changed) ∧
        (t.out.quiet.isSome = true ↔ t.Quiet) ∧ (∀ ms, t.out.quiet = some ms → ms = s.out.quiet.getD 0) ∧
        (t.slot k).words = ⟨0, 0, 0⟩ ∧ (t.slot k).primary = ⟨-128, .bad, 0⟩ ∧ (t.slot k).fallback = ⟨-128, .bad, 0⟩ ∧
        (t.slot k).sel = ⟨.lost, .primary, none, false, .program⟩ ∧ (t.slot k).retuning = false ∧
        (t.slot k).ramp = (s.slot k).ramp ∧
        (∀ j, j ≠ k → t.slot j = { s.slot j with grant := (t.slot j).grant, share := (t.slot j).share }) ∧
        t.wide = s.wide ∧ t.store = s.store ∧ t.feeds = s.feeds ∧ t.bEff = s.bEff ∧ t.out.state = s.out.state ∧
        t.out.paEn = s.out.paEn)

/-- ASSIGN_SLOT and RELEASE_SLOT taken for a slot on its way up or down, or ON, begin a drain: the engine enters DRAINING with the
clamped change, the slot is marked and turned down, and neither plan nor generation nor outcome list moves. For a slot at step 0
of RAMP_UP the drain ends at the taking, and the change is applied (R43, R91, R99). -/
def Obligations.SlotChangeOnATransmittingSlotDrains : Prop :=
  ∀ (s : State) (e : Entry) (k : SlotIx) (r : SlotRecord), s.Passes e → e.change = .assignSlot k r ∨ e.change = .releaseSlot k →
    ((s.slot k).ramp.state = .on ∨ (s.slot k).ramp.state = .rampDown ∨
        ((s.slot k).ramp.state = .rampUp ∧ (s.slot k).ramp.step ≠ 0) →
      ∃ t held, exec (takingOf e.change.kind) s = .next t ∧ t.engine = .draining { e with change := held } ∧
        (e.change = .assignSlot k r → ∃ c, ClampedRecord r c ∧ held = .assignSlot k c) ∧
        (e.change = .releaseSlot k → held = .releaseSlot k) ∧
        t.changes = (s.without e).changes ∧ (t.slot k).retuning = true ∧
        TurnedDown s.wide.rampStep (s.slot k).ramp (t.slot k).ramp ∧ t.generation = s.generation ∧ SamePlan s t ∧
        (∀ j, (t.slot j).words = (s.slot j).words ∧ (t.slot j).primary = (s.slot j).primary ∧
          (t.slot j).fallback = (s.slot j).fallback ∧ (t.slot j).sel = (s.slot j).sel) ∧
        (∀ j, j ≠ k → (t.slot j).ramp = (s.slot j).ramp ∧ (t.slot j).retuning = (s.slot j).retuning) ∧
        t.ports = s.ports ∧ t.out = s.out ∧ t.store = s.store ∧ t.feeds = s.feeds ∧ t.bEff = s.bEff) ∧
    ((s.slot k).ramp.state = .rampUp → (s.slot k).ramp.step = 0 →
      ∃ t, exec (takingOf e.change.kind) s = .next t ∧ Applied s t e ∧ t.engine = .idle ∧ t.changes = (s.without e).changes ∧
        (e.change = .assignSlot k r → ∃ c, ClampedRecord r c ∧ StartedAfresh { c with assigned := true } (t.slot k)) ∧
        (e.change = .releaseSlot k → StartedAfresh .rest (t.slot k)) ∧ ((s.slot k).sel.source ≠ .lost → t.ShowsSource k) ∧
        (∀ j, j ≠ k → (t.slot j).record = (s.slot j).record) ∧ t.wide = s.wide ∧ t.store = s.store)

/-- The last step event of a drained slot ends the drain: the change that the engine holds is applied, the mark is cleared, and the
engine enters IDLE; the last step event of the last marked slot of a LOAD_PRESET takes the engine to LOADING, and the store is
asked for the read. The last step event of another slot leaves a drain as it is (R44, R46, R47). -/
def Obligations.LastStepEndsTheDrain : Prop :=
  ∀ (s : State) (e : Entry) (k : SlotIx) (ms : Nat), s.engine = .draining e → (s.slot k).ramp.timer = some ms →
    (s.slot k).ramp.state = .rampDown → (s.slot k).ramp.step ≤ 1 →
    (∀ r, e.change = .assignSlot k r →
      ∃ t, exec (.stepEvent k) s = .next t ∧ Applied s t e ∧ t.engine = .idle ∧
        StartedAfresh { r with assigned := true } (t.slot k) ∧ ((s.slot k).sel.source ≠ .lost → t.ShowsSource k) ∧ (∀ j, j ≠ k → (t.slot j).record = (s.slot j).record) ∧ t.wide = s.wide ∧
        t.changes = s.changes) ∧
    (e.change = .releaseSlot k →
      ∃ t, exec (.stepEvent k) s = .next t ∧ Applied s t e ∧ t.engine = .idle ∧
        StartedAfresh .rest (t.slot k) ∧ ((s.slot k).sel.source ≠ .lost → t.ShowsSource k) ∧ (∀ j, j ≠ k → (t.slot j).record = (s.slot j).record) ∧ t.wide = s.wide ∧
        t.changes = s.changes) ∧
    (∀ n, e.change = .loadPreset n →
      ∃ t, exec (.stepEvent k) s = .next t ∧ SamePlan s t ∧ t.generation = s.generation ∧ t.changes = s.changes ∧
        (∀ p, (t.port p).outcomes = (s.port p).outcomes) ∧ (∀ j, (t.slot j).retuning = (s.slot j).retuning) ∧
        ((∀ j, j ≠ k → (s.slot j).retuning = true → (s.slot j).ramp.state = .off) → t.engine = .loading e ∧
          AskedForRead s t n) ∧
        ((∃ j, j ≠ k ∧ (s.slot j).retuning = true ∧ (s.slot j).ramp.state ≠ .off) → t.engine = s.engine ∧ t.store = s.store)) ∧
    (∀ i r, i ≠ k → e.change = .assignSlot i r ∨ e.change = .releaseSlot i → (s.slot i).ramp.state ≠ .off →
      ∃ t, exec (.stepEvent k) s = .next t ∧ t.engine = s.engine ∧ SamePlan s t ∧ t.generation = s.generation ∧
        t.store = s.store ∧ t.changes = s.changes ∧ ∀ p, (t.port p).outcomes = (s.port p).outcomes)

/-- LOAD_PRESET taken marks and turns down every assigned slot and moves neither plan nor generation nor outcome list. Where every
marked slot is OFF, or at step 0 of RAMP_UP and so OFF at the taking, the engine enters LOADING and the read starts at an idle
store or is kept pending; with a marked slot still to ramp down the engine enters DRAINING (R47, R48, R91, R139). -/
def Obligations.LoadPresetDrainsThenAsksForTheRead : Prop :=
  ∀ (s : State) (e : Entry) (n : PresetIx), s.Passes e → e.change = .loadPreset n →
    ∃ t, exec .loadPreset s = .next t ∧ t.changes = (s.without e).changes ∧ t.generation = s.generation ∧ SamePlan s t ∧
      (∀ k, (t.slot k).retuning = ((s.slot k).retuning || (s.slot k).record.assigned)) ∧
      (∀ k, (s.slot k).record.assigned = true → TurnedDown s.wide.rampStep (s.slot k).ramp (t.slot k).ramp) ∧
      (∀ p, (t.port p).outcomes = (s.port p).outcomes) ∧ (∀ m, t.store.preset m = s.store.preset m) ∧
      ((∀ k, (t.slot k).retuning = true →
          (s.slot k).ramp.state = .off ∨ ((s.slot k).ramp.state = .rampUp ∧ (s.slot k).ramp.step = 0)) →
        t.engine = .loading e ∧ AskedForRead s t n) ∧
      ((∃ k, (s.slot k).record.assigned = true ∧
          ((s.slot k).ramp.state = .on ∨ (s.slot k).ramp.state = .rampDown ∨
            ((s.slot k).ramp.state = .rampUp ∧ (s.slot k).ramp.step ≠ 0))) →
        t.engine = .draining e ∧ t.store = s.store)

/-- CLEAR_LOCKOUT applied empties the trip history and takes the transmitter to OFF_AIR, and at once to WARMUP with tx_enable yes,
or to TRIPPED, unrecorded, under TRIP (R131). -/
def Obligations.ClearLockoutReleasesTheTransmitter : Prop :=
  ∀ (s : State) (e : Entry), s.Passes e → e.change = .clearLockout →
    ∃ t, exec .clearLockout s = .next t ∧ Applied s t e ∧ t.changes = (s.without e).changes ∧ t.engine = .idle ∧
      t.out.trips = [] ∧ (∀ p, (t.port p).latched .txState = true) ∧
      (s.wide.txEnable = false → t.out.state = .offAir ∧ t.out.paEn = false) ∧
      (s.wide.txEnable = true → s.out.level ≠ .trip →
        t.out.state = .warmUp ∧ t.out.paEn = true ∧ ∃ ms, t.out.warmUp = some ms ∧ WarmUpTime s.wide.warmUpCode ms) ∧
      (s.wide.txEnable = true → s.out.level = .trip → t.out.state = .tripped ∧ t.out.paEn = false) ∧
      t.slots = s.slots ∧ t.wide = s.wide ∧ t.store = s.store ∧ t.feeds = s.feeds ∧ t.bEff = s.bEff ∧ t.out.hold = s.out.hold

/-! ## Feeds, monitor, selection -/

/-- A receiver in SEARCH counts good markers, locks at the eighth in a row with both FEED latches set and no path moved, and starts
again at a bad or missing marker (R56). -/
def Obligations.SearchingReceiverLocksAtTheEighthMarker : Prop :=
  ∀ (s : State) (f : Feed), (s.receiver f).link = .search →
    ((s.receiver f).good < 7 →
      exec (.goodMarker f) s = .next (s.putReceiver f { s.receiver f with good := (s.receiver f).good + 1 })) ∧
    (7 ≤ (s.receiver f).good →
      exec (.goodMarker f) s = .next (((s.putReceiver f ⟨.locked, 0, 0⟩).latch .a .feed).latch .b .feed)) ∧
    exec (.badMarker f) s = .next (s.putReceiver f { s.receiver f with good := 0 }) ∧
    exec (.missingMarker f) s = .next (s.putReceiver f { s.receiver f with good := 0 })

/-- A LOCKED receiver clears its miss count at a good marker, counts bad and missing markers alike, and unlocks at the fourth in a
row: both FEED latches are set and every path on that feed of every assigned slot is forced BAD at level -128, no other path
moving (R57, R58, R65). -/
def Obligations.LockedReceiverUnlocksAtTheFourthMiss : Prop :=
  ∀ (s : State) (f : Feed), (s.receiver f).link = .locked →
    exec (.goodMarker f) s = .next (s.putReceiver f { s.receiver f with miss := 0 }) ∧
    ((s.receiver f).miss < 3 →
      exec (.badMarker f) s = .next (s.putReceiver f { s.receiver f with miss := (s.receiver f).miss + 1 }) ∧
        exec (.missingMarker f) s = exec (.badMarker f) s) ∧
    (3 ≤ (s.receiver f).miss →
      exec (.missingMarker f) s = exec (.badMarker f) s ∧
        ∃ t, exec (.badMarker f) s = .next t ∧ t.receiver f = ⟨.search, 0, 0⟩ ∧
          (∀ g, g ≠ f → t.receiver g = s.receiver g) ∧ (∀ p, (t.port p).latched .feed = true) ∧
          (∀ k n, (s.slot k).pathOn n f = true → (t.slot k).path n = ⟨-128, .bad, 0⟩) ∧
          (∀ k n, (s.slot k).pathOn n f = false → (t.slot k).path n = (s.slot k).path n) ∧
          SamePlan s t ∧ t.generation = s.generation ∧ t.engine = s.engine ∧ t.store = s.store)

/-- An unlock moves a slot that is fed by the unlocked feed at once, whatever its hold-off: to its other path where that is present,
GOOD and on the other feed, with the hold-off started afresh, and into LOST where it is not (R73, R76, R77, R79, R83). -/
def Obligations.FeedUnlockForcesTheSwitch : Prop :=
  ∀ (s : State) (f : Feed) (k : SlotIx) (u o : PathName), (s.receiver f).link = .locked → 3 ≤ (s.receiver f).miss →
    (s.slot k).sel.source = sourceOf u → (s.slot k).pathOn u f = true → o ≠ u →
    ∃ t, exec (.missingMarker f) s = .next t ∧
      (((s.slot k).record.path o).isSome = true → ((s.slot k).path o).quality = .good → (s.slot k).pathOn o f = false →
        (t.slot k).sel.source = sourceOf o ∧ (t.slot k).sel.lastPath = o ∧ (t.slot k).sel.switchPending = false ∧
          (s.wide.holdOff = 0 → (t.slot k).sel.holdOff = none) ∧
          (s.wide.holdOff ≠ 0 → (t.slot k).sel.holdOff = some (s.wide.holdOff * 1000))) ∧
      (((s.slot k).record.path o = none ∨ ((s.slot k).path o).quality = .bad ∨ (s.slot k).pathOn o f = true) →
        (t.slot k).sel.source = .lost ∧ (t.slot k).sel.lastPath = (s.slot k).sel.lastPath ∧
          (t.slot k).sel.switchPending = false ∧ (t.slot k).sel.holdOff = none) ∧
      ∀ p, (t.port p).latched .source = true ∧ (t.port p).changed.getLsbD k.val = true

/-- MONITOR_INTERVAL brings one measurement to each path of every assigned slot, read at the delivered level clamped to -128..0, or
at -128 on a feed in SEARCH, and judged by Table 3.2.1; no other path state moves, and no record, no receiver and no generation
(R61 to R64). -/
def Obligations.MonitorIntervalJudgesEveryPath : Prop :=
  ∀ (s : State) (levels : Levels), ∃ t, exec (.monitorInterval levels) s = .next t ∧ t.monitorIn = 10 ∧ SamePlan s t ∧
    t.generation = s.generation ∧ t.feeds = s.feeds ∧ t.engine = s.engine ∧ t.store = s.store ∧ t.changes = s.changes ∧
    ∀ k : SlotIx,
      ((s.slot k).record.assigned = false →
        (t.slot k).primary = (s.slot k).primary ∧ (t.slot k).fallback = (s.slot k).fallback) ∧
      ((s.slot k).record.assigned = true →
        (∃ level, ReadAs s (s.slot k).record.primary.feed levels[k.val].primary level ∧
          Judged (s.slot k).record level (s.slot k).primary (t.slot k).primary) ∧
        (∀ path, (s.slot k).record.fallback = some path →
          ∃ level, ReadAs s path.feed levels[k.val].fallback level ∧
            Judged (s.slot k).record level (s.slot k).fallback (t.slot k).fallback) ∧
        ((s.slot k).record.fallback = none → (t.slot k).fallback = (s.slot k).fallback))

/-- What the measurements of an interval do to the selections: a slot's two measurements come in the order delivered, `mid k` stands
between them, and each change of quality is a notice. A slot leaves LOST to the preferred path with the hold-off started, enters
LOST with none, and otherwise switches at once, or is switch-pending while the hold-off runs. A change of source state shows in
the SOURCE latches and the changed-slot sets; a gain or loss forms the on-demand condition and the quiet condition anew; and a
gain by a waking slot calls the transmitter back from STANDBY or CLOSING(STANDBY), which TX_STATE shows (R66, R71 to R75, R78,
R79, R81, R83, R84, R89, R122, R126, R132). A switch called for while an earlier hold-off timer still runs after the plan's
hold-off has become 0 is deferred: the model's choice, notes/assumptions/24.md. -/
def Obligations.MeasuredQualityMovesTheSelection : Prop :=
  ∀ (s : State) (levels : Levels), ∃ (t : State) (mid : SlotIx → Slot) (wakes : Prop),
    exec (.monitorInterval levels) s = .next t ∧
    (∀ k, (mid k).record = (s.slot k).record ∧ (mid k).retuning = (s.slot k).retuning ∧
      (levels[k.val].fallbackFirst = false → (mid k).primary = (t.slot k).primary ∧ (mid k).fallback = (s.slot k).fallback) ∧
      (levels[k.val].fallbackFirst = true → (mid k).primary = (s.slot k).primary ∧ (mid k).fallback = (t.slot k).fallback) ∧
      Heard s.wide.holdOff (s.slot k) (mid k) ∧ Heard s.wide.holdOff (mid k) (t.slot k) ∧
      ((mid k).sel.source ≠ (s.slot k).sel.source ∨ (t.slot k).sel.source ≠ (mid k).sel.source → t.ShowsSource k) ∧
      ((mid k).sel.source = (s.slot k).sel.source → (t.slot k).sel.source = (mid k).sel.source →
        ∀ p, (t.port p).changed.getLsbD k.val = (s.port p).changed.getLsbD k.val)) ∧
    ((∀ k, (mid k).sel.source = (s.slot k).sel.source ∧ (t.slot k).sel.source = (mid k).sel.source) →
      t.out = s.out ∧ t.ports = s.ports ∧
        ∀ k, (t.slot k).ramp = (s.slot k).ramp ∧ (t.slot k).grant = (s.slot k).grant ∧ (t.slot k).share = (s.slot k).share) ∧
    (wakes ↔
      ∃ k, ((s.slot k).Gains (mid k) ∨ (mid k).Gains (t.slot k)) ∧ (s.slot k).record.assigned = true ∧
        (s.slot k).record.enabled = true ∧ (s.slot k).record.wakes = true) ∧
    (wakes → s.out.state = .standby → s.WarmUpEntered t) ∧ s.ShowsTransmitter t ∧
    (wakes → s.out.state = .closing .standby →
      t.out.state = .onAir ∧ t.out.paEn = true ∧
        ∀ k, (s.slot k).ramp.state = .off ∨ (s.slot k).ramp.state = .rampDown →
          (s.holdEmpty = true ∧ (t.slot k).Wants → (t.slot k).ramp.state = .rampUp ∨ (t.slot k).ramp.state = .on) ∧
            (¬ (s.holdEmpty = true ∧ (t.slot k).Wants) → (t.slot k).ramp.state = .off ∨ (t.slot k).ramp.state = .rampDown)) ∧
    (¬ wakes ∨ (s.out.state ≠ .standby ∧ s.out.state ≠ .closing .standby) → t.out = { s.out with quiet := t.out.quiet }) ∧
    (¬ wakes ∨ s.out.state ≠ .closing .standby →
      ∀ k, RampHeard s.wide.rampStep (s.out.state = .onAir ∧ s.holdEmpty = true) (s.slot k) (mid k) ∧
        RampHeard s.wide.rampStep (s.out.state = .onAir ∧ s.holdEmpty = true) (mid k) (t.slot k)) ∧
    ((∃ k, (s.slot k).GainsOrLoses (mid k) ∨ (mid k).GainsOrLoses (t.slot k)) →
      (t.out.quiet.isSome = true ↔ t.Quiet) ∧ ∀ ms, t.out.quiet = some ms → ms = 0 ∨ ms = s.out.quiet.getD 0)

/-- HOLD_OFF_EXPIRY with the mark clear stops the timer and hands nothing on; with the mark set it takes the deferred switch to the
preferred path and starts the timer again (R80, R79, R83). -/
def Obligations.HoldOffExpiryTakesTheDeferredSwitch : Prop :=
  ∀ (s : State) (k : SlotIx) (ms : Nat), (s.slot k).sel.holdOff = some ms →
    ((s.slot k).sel.switchPending = false →
      exec (.holdOffExpiry k) s = .next (s.modSlot k fun x => { x with sel := { x.sel with holdOff := none } })) ∧
    (∀ n, (s.slot k).sel.switchPending = true → (s.slot k).preferred = some n → (s.slot k).sel.source ≠ sourceOf n →
      ∃ t, exec (.holdOffExpiry k) s = .next t ∧
        (t.slot k).sel.source = sourceOf n ∧ (t.slot k).sel.lastPath = n ∧ (t.slot k).sel.switchPending = false ∧
        (s.wide.holdOff = 0 → (t.slot k).sel.holdOff = none) ∧
        (s.wide.holdOff ≠ 0 → (t.slot k).sel.holdOff = some (s.wide.holdOff * 1000)) ∧
        (∀ p, (t.port p).latched .source = true ∧ (t.port p).changed.getLsbD k.val = true) ∧
        (∀ j, j ≠ k → (t.slot j).sel = (s.slot j).sel) ∧ SamePlan s t ∧ t.generation = s.generation ∧
        ((s.slot k).sel.source ≠ .lost →
          t.out = s.out ∧ ∀ j, (t.slot j).ramp = (s.slot j).ramp ∧ (t.slot j).grant = (s.slot j).grant))

/-- Every step keeps the selection of every slot in agreement with its two qualities: LOST exactly while no path is preferred, the
mark set exactly while the path in use is not the preferred one; ON_FALLBACK only as R78 permits it; the content by R84; every
level within -128..0 (R62, R71, R73, R78, R84). -/
def Obligations.EveryStepKeepsTheSelectionLaws : Prop :=
  ∀ s t : State, s.SelectionLaw ∧ s.FallbackLaw ∧ s.ContentLaw ∧ s.LevelLaw → step s = .next t →
    t.SelectionLaw ∧ t.FallbackLaw ∧ t.ContentLaw ∧ t.LevelLaw

/-! ## Ramps and the governor -/

/-- STEP_EVENT moves the step by one in the direction of the ramp and starts the next interval at the ramp_step in force, ends a ramp
up at ON, and ends a ramp down at OFF with grant 0, which also completes a CLOSING where it was the last slot (R92, R98, R111,
R124). -/
def Obligations.StepEventMovesTheRampByOne : Prop :=
  ∀ (s : State) (k : SlotIx) (ms : Nat), (s.slot k).ramp.timer = some ms →
    ((s.slot k).ramp.state = .rampUp → (s.slot k).ramp.step < 15 →
      exec (.stepEvent k) s =
        .next (s.modSlot k fun x =>
          { x with
            ramp := ⟨.rampUp, x.ramp.step + 1, some s.wide.rampStep⟩
            share := x.grant * (x.ramp.step + 1) / 16 })) ∧
    ((s.slot k).ramp.state = .rampUp → 15 ≤ (s.slot k).ramp.step →
      exec (.stepEvent k) s = .next (s.modSlot k fun x => { x with ramp := ⟨.on, 16, none⟩, share := x.grant })) ∧
    ((s.slot k).ramp.state = .rampDown → 1 < (s.slot k).ramp.step →
      exec (.stepEvent k) s =
        .next (s.modSlot k fun x =>
          { x with
            ramp := ⟨.rampDown, x.ramp.step - 1, some s.wide.rampStep⟩
            share := x.grant * (x.ramp.step - 1) / 16 })) ∧
    ((s.slot k).ramp.state = .rampDown → (s.slot k).ramp.step ≤ 1 → (∀ e, s.engine ≠ .draining e) →
      ∃ t, exec (.stepEvent k) s = .next t ∧ (t.slot k).ramp = ⟨.off, 0, none⟩ ∧ (t.slot k).grant = 0 ∧
        (t.slot k).share = 0 ∧ (∀ j, j ≠ k → (t.slot j).ramp = (s.slot j).ramp) ∧ SamePlan s t ∧
        t.generation = s.generation ∧ t.engine = s.engine ∧ t.store = s.store ∧
        (∀ target, s.out.state = .closing target → (∀ j, j ≠ k → (s.slot j).ramp.state = .off) →
          t.out.state = target.state ∧ t.out.paEn = false ∧ ∀ p, (t.port p).latched .txState = true) ∧
        ((∀ target, s.out.state ≠ .closing target) ∨ (∃ j, j ≠ k ∧ (s.slot j).ramp.state ≠ .off) →
          t.out = s.out ∧ t.ports = s.ports))

/-- Every step keeps the laws of the Ramp Controller (R95, R88): the step is 0 when OFF, 16 when ON and between otherwise, the step
timer runs exactly while a slot ramps, a slot moves up or is ON exactly while its on-demand condition holds; and so no slot is in
RAMP_UP or ON while the hold set is non-empty. -/
def Obligations.EveryStepKeepsTheRampLaws : Prop :=
  ∀ s t : State, s.RampLaw ∧ s.DemandLaw → step s = .next t → t.RampLaw ∧ t.DemandLaw ∧ t.HoldLaw

/-- Every step keeps the governor's values those of the computation: the effective budget of the budget and the level, each grant of
the demand and the effective budget, each share of the grant and the step (R103, R104, R107, R111). -/
def Obligations.EveryStepKeepsTheGovernorsValues : Prop :=
  ∀ s t : State, s.GovernorLaw → step s = .next t → t.GovernorLaw

/-- The computation upholds the law of the Level Governor: the grants never exceed the effective budget, no grant exceeds its slot's
request, an OFF slot has grant 0; with steps of at most 16 no share exceeds its grant (R105, R111). The demand is the sum of the
requests of the slots that are not OFF, each of which is granted its request where the demand fits, and otherwise its request
times the effective budget over the demand, rounded down (R104). -/
def Obligations.GrantsNeverExceedTheEffectiveBudget : Prop :=
  ∀ s : State, s.GovernorLaw →
    s.GrantLaw ∧ (s.RampLaw → (∀ k, (s.slot k).share ≤ (s.slot k).grant) ∧ s.shareSum ≤ s.bEff) ∧
      s.demand =
        ((List.finRange 16).map fun k : SlotIx => if (s.slot k).ramp.state = .off then 0 else (s.slot k).record.power).sum ∧
      ∀ k, (s.slot k).ramp.state ≠ .off →
        (s.demand ≤ s.bEff → (s.slot k).grant = (s.slot k).record.power) ∧
          (s.bEff < s.demand → (s.slot k).grant = (s.slot k).record.power * s.bEff / s.demand)

/-! ## The Output Controller -/

/-- Every step keeps the laws of the Output Controller: PA_EN is on exactly in WARMUP, ON_AIR and CLOSING, and a slot is not OFF only
in ON_AIR or CLOSING (R116); the trip history stays within 3 entries, and at 3 entries the transmitter is in LOCKOUT (R115, R129,
R131). -/
def Obligations.EveryStepKeepsTheOutputLaws : Prop :=
  ∀ s t : State, s.AmplifierLaw ∧ s.OnAirLaw ∧ s.TripLaw → step s = .next t → t.AmplifierLaw ∧ t.OnAirLaw ∧ t.TripLaw

/-- WARM_UP_EXPIRY puts the transmitter ON_AIR with PA_EN on: every slot at OFF that wants the air enters RAMP_UP at step 0 where the
hold set is empty, every other slot at OFF stays, and the quiet timer runs exactly where the quiet condition holds (R119, R121,
R122). -/
def Obligations.WarmUpExpiryEntersOnAir : Prop :=
  ∀ (s : State) (ms : Nat), s.out.state = .warmUp → s.out.warmUp = some ms →
    ∃ t, exec .warmUpExpiry s = .next t ∧ t.out.state = .onAir ∧ t.out.paEn = true ∧ t.out.warmUp = none ∧
      (∀ p, (t.port p).latched .txState = true) ∧
      (∀ k, (s.slot k).ramp.state = .off → s.holdEmpty = true → (s.slot k).Wants →
        (t.slot k).ramp = ⟨.rampUp, 0, some s.wide.rampStep⟩) ∧
      (∀ k, (s.slot k).ramp.state = .off → ¬ (s.holdEmpty = true ∧ (s.slot k).Wants) → (t.slot k).ramp = (s.slot k).ramp) ∧
      (t.out.quiet.isSome = true ↔
        s.wide.quietTime ≠ 0 ∧ s.holdEmpty = true ∧
          ∀ k, (s.slot k).record.assigned = true → (s.slot k).record.enabled = true → (s.slot k).sel.source = .lost) ∧
      SamePlan s t ∧ t.generation = s.generation ∧ t.engine = s.engine ∧ t.store = s.store ∧ t.bEff = s.bEff ∧
      t.out.trips = s.out.trips ∧ t.out.hold = s.out.hold

/-- QUIET_EXPIRY closes the ON_AIR transmitter toward STANDBY: every slot is turned down, and with every slot then OFF the closing
completes at once with PA_EN off (R123, R124). -/
def Obligations.QuietExpiryClosesToStandby : Prop :=
  ∀ (s : State) (ms : Nat), s.out.state = .onAir → s.out.quiet = some ms →
    ∃ t, exec .quietExpiry s = .next t ∧ t.out.quiet = none ∧ (∀ p, (t.port p).latched .txState = true) ∧
      (∀ k, TurnedDown s.wide.rampStep (s.slot k).ramp (t.slot k).ramp) ∧
      ((∀ k, (t.slot k).ramp.state = .off) → t.out.state = .standby ∧ t.out.paEn = false) ∧
      ((∃ k, (t.slot k).ramp.state ≠ .off) → t.out.state = .closing .standby ∧ t.out.paEn = true) ∧
      SamePlan s t ∧ t.generation = s.generation ∧ t.engine = s.engine ∧ t.store = s.store ∧
      t.out.trips = s.out.trips ∧ t.out.hold = s.out.hold

/-- PROTECTION_LEVEL_CHANGE that neither trips an enabled amplifier nor releases TRIPPED takes the level, forms the effective budget
and the grants, sets PROTECTION on both ports, and leaves the transmitter; lines that decode to the same level are no event
(R103, R104, R117). -/
def Obligations.ProtectionChangeReformsTheBudget : Prop :=
  ∀ (s : State) (hi lo : Bool) (level : Protection), s.resetHeld = false →
    (level = if hi then .trip else if lo then .foldback else .normal) →
    (level = s.out.level → exec (.protectionLevelChange hi lo) s = .next { s with protHi := hi, protLo := lo }) ∧
    (level ≠ s.out.level → ¬ (level = .trip ∧ s.out.state.amplifierOn = true) →
      ¬ (s.out.level = .trip ∧ s.out.state = .tripped) →
      ∃ t, exec (.protectionLevelChange hi lo) s = .next t ∧ t.protHi = hi ∧ t.protLo = lo ∧
        t.out = { s.out with level := level } ∧
        (level = .normal → t.bEff = s.wide.budget) ∧ (level = .foldback → t.bEff = s.wide.budget / 2) ∧
        (level = .trip → t.bEff = 0) ∧ (∀ p, (t.port p).latched .protection = true) ∧
        (∀ k, t.slot k = { s.slot k with grant := (t.slot k).grant, share := (t.slot k).share } ∧
          (t.slot k).grant = grantOf t.bEff s.demand (s.slot k)) ∧
        t.wide = s.wide ∧ t.generation = s.generation ∧ t.engine = s.engine ∧ t.store = s.store ∧ t.feeds = s.feeds)

/-- TRIP with the amplifier enabled is recorded and stops the transmitter: LOCKOUT at the third entry of the history, TRIPPED
otherwise, PA_EN off, both timers stopped, every transmitting slot forced to OFF at step 0, every slot OFF with grant 0, PROTECTION
and TX_STATE on both ports (R96, R110, R117, R129). A drain ends with it: an ASSIGN_SLOT or RELEASE_SLOT is applied, and a
LOAD_PRESET goes on to LOADING with its read asked for (R44, R47, R48). -/
def Obligations.TripStopsTheTransmitter : Prop :=
  ∀ (s : State) (lo : Bool), s.resetHeld = false → s.out.level ≠ .trip →
    (s.out.state = .warmUp ∨ s.out.state = .onAir ∨ ∃ target, s.out.state = .closing target) →
    ∃ t, exec (.protectionLevelChange true lo) s = .next t ∧ t.out.level = .trip ∧ t.bEff = 0 ∧
      t.out.trips = s.out.trips ++ [s.now] ∧ (2 ≤ s.out.trips.length → t.out.state = .lockout) ∧
      (s.out.trips.length < 2 → t.out.state = .tripped) ∧ t.out.paEn = false ∧ t.out.warmUp = none ∧ t.out.quiet = none ∧
      (∀ k, (t.slot k).ramp.state = .off ∧ (t.slot k).grant = 0 ∧
        ((s.slot k).ramp.state ≠ .off → (t.slot k).ramp = ⟨.off, 0, none⟩)) ∧
      (∀ p, (t.port p).latched .protection = true ∧ (t.port p).latched .txState = true) ∧ t.out.hold = s.out.hold ∧
      t.changes = s.changes ∧ t.wide = s.wide ∧
      (∀ e k r, s.engine = .draining e → e.change = .assignSlot k r →
        Applied s t e ∧ t.engine = .idle ∧ StartedAfresh { r with assigned := true } (t.slot k) ∧
          ((s.slot k).sel.source ≠ .lost → t.ShowsSource k) ∧ (∀ j, j ≠ k → (t.slot j).record = (s.slot j).record) ∧
          t.store = s.store) ∧
      (∀ e k, s.engine = .draining e → e.change = .releaseSlot k →
        Applied s t e ∧ t.engine = .idle ∧ StartedAfresh .rest (t.slot k) ∧
          ((s.slot k).sel.source ≠ .lost → t.ShowsSource k) ∧ (∀ j, j ≠ k → (t.slot j).record = (s.slot j).record) ∧
          t.store = s.store) ∧
      (∀ e n, s.engine = .draining e → e.change = .loadPreset n →
        t.engine = .loading e ∧ AskedForRead s t n ∧ SamePlan s t ∧ t.generation = s.generation ∧
          ∀ p, (t.port p).outcomes = (s.port p).outcomes) ∧
      ((∀ e, s.engine ≠ .draining e) →
        t.engine = s.engine ∧ t.store = s.store ∧ SamePlan s t ∧ t.generation = s.generation ∧
          ∀ p, (t.port p).outcomes = (s.port p).outcomes)

/-- The level leaving TRIP takes TRIPPED to WARMUP with tx_enable yes and to OFF_AIR otherwise, the history kept; and
TRIP_HISTORY_DEPARTURE takes the oldest entry from the history and moves nothing else (R130). -/
def Obligations.LeavingTripRestartsTheTransmitter : Prop :=
  (∀ (s : State) (lo : Bool), s.resetHeld = false → s.out.level = .trip → s.out.state = .tripped →
    ∃ t, exec (.protectionLevelChange false lo) s = .next t ∧ t.out.trips = s.out.trips ∧
      (lo = true → t.out.level = .foldback ∧ t.bEff = s.wide.budget / 2) ∧
      (lo = false → t.out.level = .normal ∧ t.bEff = s.wide.budget) ∧
      (s.wide.txEnable = true → t.out.state = .warmUp ∧ t.out.paEn = true ∧
        ∃ ms, t.out.warmUp = some ms ∧ WarmUpTime s.wide.warmUpCode ms) ∧
      (s.wide.txEnable = false → t.out.state = .offAir ∧ t.out.paEn = false ∧ t.out.warmUp = none) ∧
      (∀ p, (t.port p).latched .protection = true ∧ (t.port p).latched .txState = true) ∧
      SamePlan s t ∧ t.generation = s.generation) ∧
  (∀ s : State, exec .tripHistoryDeparture s = .next { s with out := { s.out with trips := s.out.trips.tail } })

/-- HOLD_OUTPUT and RELEASE_OUTPUT taken from the register change the issuing port's membership and not the other's; the hold set becoming
non-empty turns every slot down and stops the quiet timer; its becoming empty in ON_AIR turns every slot that wants the air up,
and at its becoming empty a timer that stood still starts from 0 where the quiet condition then holds; the transmitter state and
PA_EN stay (R90, R91, R122, R127, R128). -/
def Obligations.HoldSetMovesTheSlots : Prop :=
  ∀ (s : State) (p : Port),
    ((s.port p).urgent = some .holdOutput →
      ∃ t, exec (.holdOutput p) s = .next t ∧ t.port p = { s.port p with urgent := none } ∧
        t.port (otherPort p) = s.port (otherPort p) ∧ t.out.hold = s.out.hold.put p true ∧
        t.out.state = s.out.state ∧ t.out.paEn = s.out.paEn ∧ SamePlan s t ∧ t.generation = s.generation ∧
        (s.holdEmpty = true → t.out.quiet = none ∧ ∀ k, TurnedDown s.wide.rampStep (s.slot k).ramp (t.slot k).ramp) ∧
        (s.holdEmpty = false → t.out = { s.out with hold := s.out.hold.put p true } ∧ t.slots = s.slots)) ∧
    ((s.port p).urgent = some .releaseOutput →
      ∃ t, exec (.releaseOutput p) s = .next t ∧ t.port p = { s.port p with urgent := none } ∧
        t.port (otherPort p) = s.port (otherPort p) ∧ t.out.hold = s.out.hold.put p false ∧
        t.out.state = s.out.state ∧ t.out.paEn = s.out.paEn ∧ SamePlan s t ∧ t.generation = s.generation ∧
        (s.out.hold.at p = true → s.out.hold.at (otherPort p) = false → s.out.state = .onAir →
          ∀ k, ((s.slot k).Wants → TurnedUp s.wide.rampStep (s.slot k).ramp (t.slot k).ramp) ∧
            (¬ (s.slot k).Wants → TurnedDown s.wide.rampStep (s.slot k).ramp (t.slot k).ramp)) ∧
        (s.out.hold.at p = true → s.out.hold.at (otherPort p) = false →
          (t.out.quiet.isSome = true ↔ t.Quiet) ∧ ∀ ms, t.out.quiet = some ms → ms = s.out.quiet.getD 0) ∧
        (s.out.hold.at p = false ∨ s.out.hold.at (otherPort p) = true →
          t.out = { s.out with hold := s.out.hold.put p false } ∧ t.slots = s.slots))

/-! ## The Preset Store -/

/-- SAVE_PRESET, ERASE_PRESET and SET_BOOT executed at once are answered by the first test of R136 that applies: PRESET_IN_USE,
STORE_BUSY, or OK, and then alone the operation starts, a save with its snapshot of the plan (R136, R137, R138, R175). While a
device reset is held no operation starts, as R143 and R146 presuppose, and the answer is STORE_BUSY: the model's choice,
notes/assumptions/7.md. A save or erase of the pending read's own preset is answered PRESET_IN_USE also where it arrives with the
completion of the operation: the model's choice, notes/assumptions/26.md. -/
def Obligations.StoreCommandStartsOrIsTurnedAway : Prop :=
  ∀ (s : State) (p : Port) (n : PresetIx), s.Ready p →
    (let b : Body := ⟨1, [BitVec.ofNat 8 n.val]⟩
    (s.engine.usesPreset n = true →
      exec (.savePreset p b) s = .next (s.answered p .presetInUse 0x40 []) ∧
        exec (.erasePreset p b) s = .next (s.answered p .presetInUse 0x41 [])) ∧
    (s.engine.usesPreset n = false → s.store.activity ≠ .idle ∨ s.resetHeld = true →
      exec (.savePreset p b) s = .next (s.answered p .storeBusy 0x40 []) ∧
        exec (.erasePreset p b) s = .next (s.answered p .storeBusy 0x41 [])) ∧
    (s.engine.usesPreset n = false → s.store.activity = .idle → s.resetHeld = false →
      exec (.savePreset p b) s =
        .next ({ s with
            store := { s.store with activity := .savingErase n s.planImage p, phaseLeft := 40 } }.answered p .ok 0x40 []) ∧
      exec (.erasePreset p b) s =
        .next ({ s with store := { s.store with activity := .erasing n p, phaseLeft := 40 } }.answered p .ok 0x41 [])) ∧
    (s.store.activity ≠ .idle ∨ s.resetHeld = true →
      exec (.setBoot p b) s = .next (s.answered p .storeBusy 0x42 []) ∧
        exec (.setBoot p ⟨1, [0xFF]⟩) s = .next (s.answered p .storeBusy 0x42 [])) ∧
    (s.store.activity = .idle → s.resetHeld = false →
      exec (.setBoot p b) s =
        .next ({ s with
            store := { s.store with activity := .writingBoot (some n) p, phaseLeft := 10 } }.answered p .ok 0x42 []) ∧
      exec (.setBoot p ⟨1, [0xFF]⟩) s =
        .next ({ s with
            store := { s.store with activity := .writingBoot none p, phaseLeft := 10 } }.answered p .ok 0x42 [])))

/-- The ends of the store's phases: ERASING of a save leaves the preset EMPTY and begins PROGRAMMING; PROGRAMMING leaves it VALID
with the snapshot or CORRUPT; an erase leaves it EMPTY; a boot-selector write leaves the new value. Each completion records the
last result, sets the starting port's STORE latch, and starts the pending read or enters IDLE (R137 to R140). A pending read
that starts stays reported until it has ended (notes/assumptions/23.md). -/
def Obligations.StorePhasesEndAsTheTableSays : Prop :=
  ∀ (s : State) (n : PresetIx) (snapshot : PlanImage) (p : Port) (sel : Option PresetIx),
    (s.store.activity = .savingErase n snapshot p →
      ∃ t, exec .endOfErasing s = .next t ∧ t.store.activity = .savingProgram n snapshot p ∧ t.store.phaseLeft = 20 ∧
        t.store.preset n = .empty ∧ (∀ m, m ≠ n → t.store.preset m = s.store.preset m) ∧
        t = { s with store := t.store } ∧ t.store.boot = s.store.boot ∧ t.store.lastResult = s.store.lastResult ∧
        t.store.pendingRead = s.store.pendingRead) ∧
    (∀ passed, s.store.activity = .savingProgram n snapshot p →
      ∃ t, exec (.endOfProgramming passed) s = .next t ∧
        (passed = true → t.store.preset n = .valid snapshot) ∧ (passed = false → t.store.preset n = .corrupt) ∧
        (∀ m, m ≠ n → t.store.preset m = s.store.preset m) ∧ t.store.boot = s.store.boot ∧
        t.store.lastResult = some ⟨.save n, p, passed⟩ ∧
        (s.store.pendingRead = none → t.store.activity = .idle) ∧
        (∀ r, s.store.pendingRead = some r → t.store.activity = .reading r ∧ t.store.phaseLeft = 5 ∧ t.store.pendingRead = some r) ∧
        t = { s with store := t.store }.latch p .store) ∧
    (s.store.activity = .erasing n p →
      ∃ t, exec .eraseCompletion s = .next t ∧ t.store.preset n = .empty ∧
        (∀ m, m ≠ n → t.store.preset m = s.store.preset m) ∧ t.store.boot = s.store.boot ∧
        t.store.lastResult = some ⟨.erase n, p, true⟩ ∧
        (s.store.pendingRead = none → t.store.activity = .idle) ∧
        (∀ r, s.store.pendingRead = some r → t.store.activity = .reading r ∧ t.store.phaseLeft = 5 ∧ t.store.pendingRead = some r) ∧
        t = { s with store := t.store }.latch p .store) ∧
    (s.store.activity = .writingBoot sel p →
      ∃ t, exec .bootSelectorWriteCompletion s = .next t ∧ t.store.boot = sel ∧
        (∀ m, t.store.preset m = s.store.preset m) ∧ t.store.lastResult = some ⟨.writeBoot sel, p, true⟩ ∧
        (s.store.pendingRead = none → t.store.activity = .idle) ∧
        (∀ r, s.store.pendingRead = some r → t.store.activity = .reading r ∧ t.store.phaseLeft = 5 ∧ t.store.pendingRead = some r) ∧
        t = { s with store := t.store }.latch p .store)

/-- Every step keeps what is not there at rest, and the changes in flight in order: an EMPTY slot and an absent path hold the rest
values, every tuning word is that of its record, and so in the stored images (R8, R19, R46, R60, R67, R70, R87, R172); a boot
holds the empty plan, with an idle store until the end of the reset and then the boot read in progress (R34, R143, R144, R146);
only draining slots bear the retuning mark, and a drain lasts while one of them ramps down (R43, R44, R47); and a LOAD_PRESET's
preset stays VALID and untouched until the read that LOADING asked for ends (R48, R50, R139). -/
def Obligations.EveryStepKeepsTheRestAndReadLaws : Prop :=
  ∀ s t : State, s.RampLaw ∧ s.RestLaw ∧ s.BootLaw ∧ s.DrainLaw ∧ s.ReadLaw → step s = .next t →
    t.RestLaw ∧ t.BootLaw ∧ t.DrainLaw ∧ t.ReadLaw

/-! ## The control ports -/

/-- SELECT_PERIOD_START fixes the outgoing frame and its summary as they stand, stops the silence timer, and makes a SILENT port
ACTIVE with the other port's PEER latch set; nothing else moves (R148, R158). A start inside a period is no event
(notes/assumptions/14.md). -/
def Obligations.PeriodStartFixesTheFrame : Prop :=
  ∀ (s : State) (p : Port),
    ((s.port p).period = none →
      ∃ t o, exec (.selectPeriodStart p) s = .next t ∧
        t.port p = { s.port p with period := some o, silenceTimer := none, silent := false } ∧
        o.response = (s.port p).rspQueue.head? ∧ o.atHead = (s.port p).rspQueue.head?.isSome ∧
        o.summary =
          ⟨(s.port p).cmdQueue.length, (s.port p).rspQueue.length - 1, (s.port p).overrun, (s.port p).urgent.isSome,
            (s.port p).urgentLost, decide ((s.port p).latches &&& ~~~(s.port p).mask ≠ 0), (s.port (otherPort p)).peer0,
            (s.port (otherPort p)).peer1, (s.port (otherPort p)).silent, decide (s.engine = .booting)⟩ ∧
        ((s.port p).silent = false → t.port (otherPort p) = s.port (otherPort p)) ∧
        ((s.port p).silent = true →
          t.port (otherPort p) =
            { s.port (otherPort p) with latches := (s.port (otherPort p)).latches ||| 0b100000000#9 }) ∧
        t = { s with ports := t.ports }) ∧
    ((s.port p).period.isSome = true → exec (.selectPeriodStart p) s = .next s)

/-- SELECT_PERIOD_END. At a port with nothing waiting the outgoing response leaves where the period shifted all of it; a NOP does
nothing more; an urgent frame in its right form goes to the free register or is lost with URGENT_LOST set; a frame of a queued
command does what that command's row does; and an urgent code in a wrong form is a queued frame that is answered MALFORMED. At a
port whose commands wait behind a full response queue, a period that takes no response away lets a new frame join them, or
discards it at a full command queue with OVERRUN, which then stays set though the period showed it; a period that takes one away
lets the command at the head act and answer first. Last of all the flags that the period showed clear, the period is over, and
the silence timer of a supervised port starts (R149 to R151, R153, R168, R170, R176, R177). -/
def Obligations.PeriodEndHandlesTheFrame : Prop :=
  (∀ (s : State) (p : Port) (o : Outgoing) (w : List Byte), (s.port p).period = some o → (s.port p).cmdQueue = [] →
    ∃ removed : PortState, removed =
        { s.port p with
          rspQueue := if o.atHead = true ∧ o.length ≤ w.length then (s.port p).rspQueue.tail else (s.port p).rspQueue } ∧
      (w.length < 2 ∨ byteAt w 0 = 0 → exec (.selectPeriodEnd p w) s = .next (s.modPort p fun _ => removed.closed o)) ∧
      (∀ u, UrgentBytes w u → (s.port p).urgent = none →
        exec (.selectPeriodEnd p w) s = .next (s.modPort p fun _ => { removed.closed o with urgent := some u })) ∧
      (∀ u, UrgentBytes w u → (s.port p).urgent.isSome = true →
        exec (.selectPeriodEnd p w) s = .next (s.modPort p fun _ => { removed.closed o with urgentLost := true })) ∧
      (∀ c code b, queuedForm c = some (p, code, b) → c.wellFormed = true → FrameBytes w ⟨code, b⟩ →
        ∀ t, exec c (s.modPort p fun _ => removed) = .next t →
          exec (.selectPeriodEnd p w) s = .next (t.modPort p fun q => q.closed o)) ∧
      (∀ f, FrameBytes w f → f.code = 0x80 ∨ f.code = 0x81 ∨ f.code = 0x82 ∨ f.code = 0x83 → (∀ u, ¬ UrgentBytes w u) →
        (removed.rspQueue.length < 4 →
          exec (.selectPeriodEnd p w) s =
            .next (s.modPort p fun _ =>
              { removed.closed o with rspQueue := removed.rspQueue ++ [⟨.malformed, f.code, []⟩] })) ∧
        (4 ≤ removed.rspQueue.length →
          exec (.selectPeriodEnd p w) s = .next (s.modPort p fun _ => { removed.closed o with cmdQueue := [f] })))) ∧
  (∀ (s : State) (p : Port) (o : Outgoing) (w : List Byte) (head : Frame) (rest : List Frame),
    (s.port p).period = some o → (s.port p).cmdQueue = head :: rest → rest.length < 4 → (s.port p).rspQueue.length = 4 →
    (o.atHead = false ∨ w.length < o.length →
      (w.length < 2 ∨ byteAt w 0 = 0 → exec (.selectPeriodEnd p w) s = .next (s.modPort p fun q => q.closed o)) ∧
      (∀ u, UrgentBytes w u →
        exec (.selectPeriodEnd p w) s =
          .next (s.modPort p fun q =>
            { q.closed o with
              urgent := some (q.urgent.getD u)
              urgentLost := q.urgent.isSome || (q.closed o).urgentLost })) ∧
      (∀ f, FrameBytes w f → f.code ≠ 0 → (∀ u, ¬ UrgentBytes w u) →
        (rest.length < 3 →
          exec (.selectPeriodEnd p w) s = .next (s.modPort p fun q => { q.closed o with cmdQueue := q.cmdQueue ++ [f] })) ∧
        (rest.length = 3 →
          exec (.selectPeriodEnd p w) s = .next (s.modPort p fun q => { q.closed o with overrun := true })))) ∧
    (o.atHead = true → o.length ≤ w.length →
      ∃ u t : State, u = s.modPort p (fun q => { q with cmdQueue := rest, rspQueue := q.rspQueue.tail }) ∧
        t = (u.perform p head).2.answered p (u.perform p head).1.1 head.code (u.perform p head).1.2 ∧
        (∀ g, UrgentBytes w g →
          exec (.selectPeriodEnd p w) s =
            .next (t.modPort p fun q =>
              { q.closed o with
                urgent := some (q.urgent.getD g)
                urgentLost := q.urgent.isSome || (q.closed o).urgentLost })) ∧
        (∀ f, FrameBytes w f → f.code ≠ 0 → (∀ g, ¬ UrgentBytes w g) →
          exec (.selectPeriodEnd p w) s = .next (t.modPort p fun q => { q.closed o with cmdQueue := q.cmdQueue ++ [f] }))))

/-- A queued command that meets a full response queue waits in the command queue, acting on nothing; at a full command queue its
frame is discarded with OVERRUN. When a select period with a NOP then takes a response away, the command at the head acts, as
`perform` says, and its one response follows; the rest wait on (R149, R151). -/
def Obligations.FramesWaitWhileResponsesAreFull : Prop :=
  (∀ (c : Instr) (p : Port) (code : Byte) (b : Body) (s : State), queuedForm c = some (p, code, b) → c.wellFormed = true →
    4 ≤ (s.port p).rspQueue.length →
    ((s.port p).cmdQueue.length < 4 →
      exec c s = .next (s.modPort p fun q => { q with cmdQueue := q.cmdQueue ++ [⟨code, b⟩] })) ∧
    (4 ≤ (s.port p).cmdQueue.length → exec c s = .next (s.modPort p fun q => { q with overrun := true }))) ∧
  (∀ (s : State) (p : Port) (o : Outgoing) (w : List Byte) (f : Frame) (rest : List Frame),
    (s.port p).period = some o → o.atHead = true → o.length ≤ w.length → byteAt w 0 = 0 → (s.port p).cmdQueue = f :: rest →
    (s.port p).rspQueue.length = 4 →
    ∃ u : State, u = s.modPort p (fun q => { q with cmdQueue := rest, rspQueue := q.rspQueue.tail }) ∧
      exec (.selectPeriodEnd p w) s =
        .next (((u.perform p f).2.answered p (u.perform p f).1.1 f.code (u.perform p f).1.2).modPort p fun q => q.closed o))

/-- The port's check of form at execution: a code that is no command is answered UNKNOWN, delivered short or not (the model's choice:
notes/assumptions/25.md), a form fault MALFORMED, and neither acts on anything (R152, R170, R177); delivered to a port that answers at once, that response is its only effect. -/
def Obligations.FormFaultsAreAnsweredAndActOnNothing : Prop :=
  (∀ (s : State) (p : Port) (f : Frame),
    (commandOfCode f.code = none → s.perform p f = ((.unknown, []), s)) ∧
      ∀ c, commandOfCode f.code = some c → FormFault c f.body → s.perform p f = ((.malformed, []), s)) ∧
  (∀ (s : State) (p : Port) (code : Byte) (b : Body), s.Ready p → (Instr.unknown p code b).wellFormed = true →
    exec (.unknown p code b) s = .next (s.answered p .unknown code [])) ∧
  (∀ (s : State) (c : Instr) (k : Command) (p : Port) (code : Byte) (b : Body), s.Ready p →
    queuedForm c = some (p, code, b) → c.wellFormed = true → commandOfCode code = some k → FormFault k b →
    exec c s = .next (s.answered p .malformed code []))

/-- READ_PLAN, READ_TRANSMITTER, READ_FEEDS and READ_OUTCOMES executed at once are answered OK with the bytes of R173 and R174 formed
from the state as it stands, and move nothing else (R18, R22, R53, R132, R173, R174). The age of a trip is its whole seconds,
shown as 599 at the instant at which its departure is due (notes/assumptions/13.md); a stopped quiet timer shows 0 seconds
(notes/assumptions/22.md). -/
def Obligations.ReadsReportAndMoveNothing : Prop :=
  ∀ (s : State) (p : Port), s.Ready p →
    exec (.readPlan p ⟨0, []⟩) s =
      .next (s.answered p .ok 0x21
        (bytes16 s.generation ++
          [(match s.engine with
            | .booting => 0
            | .idle => 1
            | .draining _ => 2
            | .loading _ => 3),
            (match s.engine with
            | .draining e => e.ticket
            | .loading e => e.ticket
            | _ => 0),
            BitVec.ofNat 8 s.changes.entries.length] ++
          bytesOfNat16 s.wide.budget ++ [BitVec.ofNat 8 s.wide.rampStep, BitVec.ofNat 8 s.wide.warmUpCode] ++
          bytesOfNat16 s.wide.quietTime ++ [BitVec.ofNat 8 s.wide.holdOff, if s.wide.txEnable then 1 else 0])) ∧
    (∀ (age : Nat → Nat) (total : (Slot → Nat) → Nat),
      (∀ i, age i = ((s.out.trips[i]?).map fun time => min 599 ((s.now - time) / 1000)).getD 0) →
      (∀ f, total f = ((List.finRange 16).map fun k : SlotIx => f (s.slot k)).sum) →
      exec (.readTransmitter p ⟨0, []⟩) s =
        .next (s.answered p .ok 0x22
          ([(match s.out.state with
              | .offAir => 0
              | .warmUp => 1
              | .onAir => 2
              | .closing _ => 3
              | .standby => 4
              | .tripped => 5
              | .lockout => 6),
              (match s.out.state with
              | .closing .offAir => (0 : Byte)
              | .closing .standby => 4
              | _ => 0xFF),
              if s.out.paEn then 1 else 0,
              (match s.out.level with
              | .normal => 0
              | .foldback => 1
              | .trip => 2),
              (if s.out.hold.a then 1 else 0) + (if s.out.hold.b then 2 else 0), BitVec.ofNat 8 s.out.trips.length] ++
            bytesOfNat16 (age 0) ++ bytesOfNat16 (age 1) ++ bytesOfNat16 (age 2) ++ bytesOfNat16 (s.out.warmUp.getD 0) ++
            (match s.out.quiet with
            | some ms => bytesOfNat16 (ms / 1000) ++ [1]
            | none => [0, 0, 0]) ++
            bytesOfNat16 s.bEff ++ [BitVec.ofNat 8 (total fun x => if x.ramp.state = .off then 0 else 1)] ++
            bytesOfNat16 (total fun x => if x.ramp.state = .off then 0 else x.record.power) ++
            bytesOfNat16 (total Slot.grant) ++ bytesOfNat16 (s.bEff - total Slot.grant) ++
            bytesOfNat16 (total Slot.share)))) ∧
    exec (.readFeeds p ⟨0, []⟩) s =
      .next (s.answered p .ok 0x23
        ([Feed.a, Feed.b].flatMap fun f : Feed =>
          (match (s.receiver f).link with
          | .search => [0, BitVec.ofNat 8 (s.receiver f).good]
          | .locked => [1, BitVec.ofNat 8 (s.receiver f).miss] : List Byte))) ∧
    exec (.readOutcomes p ⟨0, []⟩) s =
      .next (s.answered p .ok 0x24
        ([BitVec.ofNat 8 (s.port p).outcomes.length] ++
          (s.port p).outcomes.flatMap (fun r =>
            [r.ticket,
              (match r.kind with
              | .assignSlot => 1
              | .releaseSlot => 2
              | .setPower => 3
              | .setThresholds => 4
              | .setSlotEnable => 5
              | .setPlanParams => 6
              | .setTransmit => 7
              | .loadPreset => 8
              | .clearLockout => 9),
              ((r.argument.map (BitVec.ofNat 8)).getD 0xFF),
              (match r.code with
              | .applied => 1
              | .stale => 2
              | .overlap => 3
              | .outOfBand => 4
              | .badWidth => 5
              | .emptySlot => 6
              | .presetInvalid => 7
              | .storeBusy => 8
              | .wrongState => 9
              | .purged => 10)] ++
              bytes16 (r.generation.getD 0)) ++
          List.replicate (6 * (8 - (s.port p).outcomes.length)) 0x00))

/-- READ_SLOT of a slot and SCAN_NEXT at the scan pointer executed at once are answered OK with the same 56-byte report of the slot;
READ_SLOT moves nothing, SCAN_NEXT advances the port's pointer, from last back to first and otherwise to the next index, and
moves nothing else (R160, R172). An EMPTY slot and an absent path hold, and so report, the rest values: `State.RestLaw`, which
EveryStepKeepsTheRestAndReadLaws states. -/
def Obligations.SlotReportsAndTheScan : Prop :=
  ∀ (s : State) (p : Port) (k : SlotIx), s.Ready p →
    ∃ report : List Byte, report.length = 56 ∧
      report =
        (let x := s.slot k
        ([BitVec.ofNat 8 k.val] ++ bytes16 s.generation ++
          [(if x.record.enabled then 1 else 0) + (if x.record.fallback.isSome then 2 else 0) +
              (if x.record.wakes then 4 else 0) + (if x.record.assigned then 8 else 0),
            (if x.record.lossAction = LossAction.pilot then 1 else 0), (if x.record.primary.feed = Feed.b then 1 else 0)] ++
          bytesOfInt32 x.record.primary.offset ++
          (match x.record.fallback with
            | some f => [if f.feed = Feed.b then 1 else 0] ++ bytesOfInt32 f.offset
            | none => [0, 0, 0, 0, 0]) ++
          bytesOfInt32 x.record.output ++ [BitVec.ofNat 8 x.record.width] ++ bytesOfNat16 x.record.power ++
          [BitVec.ofInt 8 x.record.tLoss, BitVec.ofNat 8 x.record.hyst, BitVec.ofNat 8 x.record.lossDwell,
            BitVec.ofNat 8 x.record.restoreDwell] ++
          bytes32 x.words.out ++ bytes32 x.words.primary ++ bytes32 x.words.fallback ++
          [BitVec.ofInt 8 x.primary.level, (if x.primary.quality = Quality.good then 1 else 0), BitVec.ofNat 8 x.primary.dwell,
            BitVec.ofInt 8 x.fallback.level, (if x.fallback.quality = Quality.good then 1 else 0), BitVec.ofNat 8 x.fallback.dwell] ++
          [(match x.sel.source with
            | .lost => (0 : Byte)
            | .onPrimary => 1
            | .onFallback => 2), (if x.sel.lastPath = PathName.fallback then 1 else 0)] ++ bytesOfNat16 (x.sel.holdOff.getD 0) ++
          [(if x.sel.switchPending then 1 else 0) + (if x.retuning then 2 else 0),
            (if x.sel.content = Content.pilot then 1 else 0), (match x.ramp.state with
            | .off => (0 : Byte)
            | .rampUp => 1
            | .on => 2
            | .rampDown => 3), BitVec.ofNat 8 x.ramp.step] ++
          bytesOfNat16 x.grant ++ bytesOfNat16 x.share : List Byte)) ∧
      exec (.readSlot p ⟨1, [BitVec.ofNat 8 k.val]⟩) s = .next (s.answered p .ok 0x20 report) ∧
      ((s.port p).scanPtr = k →
        exec (.scanNext p ⟨0, []⟩) s =
          .next ((s.modPort p fun q =>
            { q with scanPtr := if q.scanPtr = q.scanLast then q.scanFirst else q.scanPtr + 1 }).answered p .ok 0x34 report))

/-- READ_EVENTS executed at once reports the latches that are set and unmasked, the highest cause among them, and the changed-slot
set, and then clears the latch of that cause alone, with SOURCE also the changed-slot set; with none reported nothing is
cleared (R165, R174). -/
def Obligations.ReadEventsClearsTheHighestCause : Prop :=
  ∀ (s : State) (p : Port), s.Ready p →
    ∃ seen : BitVec 9, seen = (s.port p).latches &&& ~~~(s.port p).mask ∧
      (seen = 0 →
        exec (.readEvents p ⟨0, []⟩) s =
          .next (s.answered p .ok 0x25 ([0, 0] ++ [0] ++ bytes16 (s.port p).changed))) ∧
      (∀ i : Nat, i < 9 → seen.getLsbD i = true → (∀ j, j < i → seen.getLsbD j = false) →
        exec (.readEvents p ⟨0, []⟩) s =
          .next ((s.modPort p fun q =>
            { q with
              latches := q.latches &&& ~~~(1#9 <<< i)
              changed := if i = 4 then 0 else q.changed }).answered p .ok 0x25
                (bytes16 (seen.setWidth 16) ++ [BitVec.ofNat 8 (i + 1)] ++ bytes16 (s.port p).changed)))

/-- READ_STORE executed at once inverts the issuing port's toggle bit while the store is not IDLE and keeps it in IDLE, answers OK with
17 bytes formed from the store as it stands, of which the last is the bit after the inversion, and moves nothing else, the other
port's bit included (R141, R174). -/
def Obligations.ReadStoreInvertsTheToggle : Prop :=
  ∀ (s : State) (p : Port), s.Ready p →
    ∃ (bit : Bool) (preset : Option PresetIx → Byte) (port : Port → Byte),
      (s.store.activity = .idle → bit = s.store.toggle.at p) ∧ (s.store.activity ≠ .idle → bit = !s.store.toggle.at p) ∧
        preset none = 0xFF ∧ (∀ n, preset (some n) = BitVec.ofNat 8 n.val) ∧ port .a = 0 ∧ port .b = 1 ∧
        exec (.readStore p ⟨0, []⟩) s =
          .next ({ s with store := { s.store with toggle := s.store.toggle.put p bit } }.answered p .ok 0x26
            ((match s.store.activity with
              | .idle => [0, 0xFF, 0xFF, 0xFF]
              | .savingErase n _ q => [1, 1, BitVec.ofNat 8 n.val, port q]
              | .savingProgram n _ q => [2, 1, BitVec.ofNat 8 n.val, port q]
              | .erasing n q => [1, 2, BitVec.ofNat 8 n.val, port q]
              | .writingBoot sel q => [3, 3, preset sel, port q]
              | .reading n => [4, 4, BitVec.ofNat 8 n.val, 2] : List Byte) ++
              [preset s.store.pendingRead] ++
              ((List.finRange 4).map fun n : PresetIx =>
                match s.store.preset n with
                | .empty => 0
                | .valid _ => (1 : Byte)
                | .corrupt => 2) ++
              [preset s.store.boot] ++
              (match s.store.lastResult with
              | none => [0, 0, 0, 0, 0]
              | some ⟨.save n, q, done⟩ => [1, 1, BitVec.ofNat 8 n.val, port q, if done then 0 else 1]
              | some ⟨.erase n, q, done⟩ => [1, 2, BitVec.ofNat 8 n.val, port q, if done then 0 else 1]
              | some ⟨.writeBoot sel, q, done⟩ => [1, 3, preset sel, port q, if done then 0 else 1] : List Byte) ++
              [(match s.store.bootResult with
                | .pending => (0 : Byte)
                | .none => 1
                | .empty => 2
                | .corrupt => 3
                | .loaded => 4), if bit then 1 else 0]))

/-- SET_EVENT_MASK, SET_PEER_FLAGS, SET_SILENCE and SCAN_RANGE executed at once are answered OK and write their own items: the nine mask
positions, both peer flags with the other port's PEER latch where either changed, the silence time with its timer restarted or
stopped, the scan range with the pointer at first (R156, R157, R160, R163, R175). In a select period the timer stays stopped
(notes/assumptions/15.md). -/
def Obligations.SettingsAreWrittenAtExecution : Prop :=
  ∀ (s : State) (p : Port) (x y : Byte), s.Ready p →
    exec (.setEventMask p ⟨2, [x, y]⟩) s =
      .next ((s.modPort p fun q => { q with mask := (x ++ y).setWidth 9 }).answered p .ok 0x30 []) ∧
    (((s.port p).peer0 = x.getLsbD 0 ∧ (s.port p).peer1 = x.getLsbD 1) →
      exec (.setPeerFlags p ⟨1, [x]⟩) s = .next (s.answered p .ok 0x31 [])) ∧
    (¬ ((s.port p).peer0 = x.getLsbD 0 ∧ (s.port p).peer1 = x.getLsbD 1) →
      exec (.setPeerFlags p ⟨1, [x]⟩) s =
        .next (((s.modPort p fun q => { q with peer0 := x.getLsbD 0, peer1 := x.getLsbD 1 }).modPort (otherPort p) fun q =>
          { q with latches := q.latches ||| 0b100000000#9 }).answered p .ok 0x31 [])) ∧
    exec (.setSilence p ⟨1, [x]⟩) s =
      .next ((s.modPort p fun q =>
        { q with
          silenceTime := x.toNat
          silenceTimer := if x = 0 ∨ q.period.isSome = true then none else some 0 }).answered p .ok 0x32 []) ∧
    (∀ first last : SlotIx,
      exec (.scanRange p ⟨2, [BitVec.ofNat 8 first.val, BitVec.ofNat 8 last.val]⟩) s =
        .next ((s.modPort p fun q =>
          { q with scanFirst := first, scanLast := last, scanPtr := first }).answered p .ok 0x33 []))

/-- PORT_CLEAR taken with no command left to execute empties the queues its selector names, clears OVERRUN, URGENT_LOST and the
register, and leaves the rest of the port, the other port and every other block; a response being shifted out is gone from its
queue. A RESPONSES taking gives room: the waiting commands are executed, oldest first, up to four (R151, R155). -/
def Obligations.PortClearEmptiesTheNamedQueues : Prop :=
  (∀ (s : State) (p : Port) (sel : ClearSelector), (s.port p).urgent = some (.portClear sel) →
    (sel = .commands ∨ sel = .both ∨ (s.port p).cmdQueue = []) →
    exec (.portClear p) s =
      .next (s.modPort p fun q =>
        { q with
          cmdQueue := []
          rspQueue := if sel = .commands then q.rspQueue else []
          urgent := none
          overrun := false
          urgentLost := false
          period := q.period.map fun o => { o with atHead := o.atHead && decide (sel = .commands) } })) ∧
  (∀ (s : State) (p : Port), (s.port p).urgent = some (.portClear .responses) →
    ∃ t, exec (.portClear p) s = .next t ∧ (t.port p).cmdQueue = (s.port p).cmdQueue.drop 4 ∧
      (t.port p).rspQueue.map Response.command = ((s.port p).cmdQueue.take 4).map Frame.code ∧ (t.port p).urgent = none ∧
      (t.port p).overrun = false ∧ (t.port p).urgentLost = false ∧
      ∀ f, (s.port p).cmdQueue = [f] →
        ∃ u : State, u = s.modPort p (fun q =>
            { q with
              cmdQueue := []
              rspQueue := []
              urgent := none
              overrun := false
              urgentLost := false
              period := q.period.map fun o => { o with atHead := false } }) ∧
          t = (u.perform p f).2.answered p (u.perform p f).1.1 f.code (u.perform p f).1.2)

/-- SILENCE_EXPIRY takes the port SILENT: it leaves the hold set, its peer flags become 0, its urgent command is discarded, the other
port's PEER latch is set, and everything else of the port stays; where it alone held the output on the air, every slot that wants
the air turns up, and a quiet timer that stood still starts from 0 where the quiet condition then holds (R122, R128, R158). -/
def Obligations.SilenceExpiryUndoesThePort : Prop :=
  ∀ (s : State) (p : Port) (ms : Nat), (s.port p).silenceTimer = some ms →
    ∃ t, exec (.silenceExpiry p) s = .next t ∧
      t.port p = { s.port p with silent := true, silenceTimer := none, peer0 := false, peer1 := false, urgent := none } ∧
      t.port (otherPort p) = { s.port (otherPort p) with latches := (s.port (otherPort p)).latches ||| 0b100000000#9 } ∧
      t.out.hold = s.out.hold.put p false ∧ t.out.state = s.out.state ∧ t.out.paEn = s.out.paEn ∧ t.changes = s.changes ∧
      t.store = s.store ∧ SamePlan s t ∧ t.generation = s.generation ∧ t.engine = s.engine ∧
      (s.out.hold.at p = true → s.out.hold.at (otherPort p) = false → s.out.state = .onAir →
        ∀ k, ((s.slot k).Wants → TurnedUp s.wide.rampStep (s.slot k).ramp (t.slot k).ramp) ∧
          (¬ (s.slot k).Wants → TurnedDown s.wide.rampStep (s.slot k).ramp (t.slot k).ramp)) ∧
      (s.out.hold.at p = true → s.out.hold.at (otherPort p) = false →
        (t.out.quiet.isSome = true ↔ t.Quiet) ∧ ∀ ms, t.out.quiet = some ms → ms = s.out.quiet.getD 0) ∧
      (s.out.hold.at p = false ∨ s.out.hold.at (otherPort p) = true →
        t.out = { s.out with hold := s.out.hold.put p false } ∧ t.slots = s.slots)

/-- Every step keeps the Law of the Control Ports: at most 4 frames in each queue and at most 8 records in the outcome list; and a
command waits only while the response queue is full (R151, R152). -/
def Obligations.EveryStepKeepsThePortLaws : Prop :=
  ∀ s t : State, s.PortLaw ∧ s.WaitingLaw → step s = .next t → t.PortLaw ∧ t.WaitingLaw
end

