-- ==== Sys2Proof/Laws/State.lean ====
section
/-! SUPPORT. For each named update of the state, what each field it leaves alone holds afterwards; and the slot and the port
that an update names. -/

namespace Sys2Proof.Machine

/-! ## One of two -/

@[simp] theorem otherPort_otherPort (p : Port) : otherPort (otherPort p) = p := by cases p <;> rfl

@[simp] theorem otherPort_ne (p : Port) : otherPort p ≠ p := by cases p <;> decide

@[simp] theorem Pair.at_put_self {α : Type} (x : Pair α) (p : Port) (v : α) : (x.put p v).at p = v := by cases p <;> rfl

theorem Pair.at_put_of_ne {α : Type} (x : Pair α) {p q : Port} (h : q ≠ p) (v : α) : (x.put p v).at q = x.at q := by
  cases p <;> cases q <;> first | rfl | exact absurd rfl h

@[simp] theorem Pair.at_put_other {α : Type} (x : Pair α) (p : Port) (v : α) :
    (x.put p v).at (otherPort p) = x.at (otherPort p) := by cases p <;> rfl

@[simp] theorem Pair.put_at_self {α : Type} (x : Pair α) (p : Port) : x.put p (x.at p) = x := by cases p <;> rfl

/-! ## The slot that an update names -/

theorem State.slot_congr {s t : State} (h : t.slots = s.slots) (k : SlotIx) : t.slot k = s.slot k := by
  simp only [State.slot, h]

@[simp] theorem State.slot_putSlot_self (s : State) (k : SlotIx) (x : Slot) : (s.putSlot k x).slot k = x := by
  simp [State.slot, State.putSlot]

theorem State.slot_putSlot_of_ne (s : State) {j k : SlotIx} (h : j ≠ k) (x : Slot) : (s.putSlot k x).slot j = s.slot j := by
  simp only [State.slot, State.putSlot]
  exact Vector.getElem_set_ne _ _ (by simpa [Fin.ext_iff, eq_comm] using h)

theorem State.slot_putSlot (s : State) (j k : SlotIx) (x : Slot) :
    (s.putSlot k x).slot j = if j = k then x else s.slot j := by
  by_cases h : j = k
  · subst h; simp
  · simp [h, State.slot_putSlot_of_ne]

@[simp] theorem State.slot_modSlot_self (s : State) (k : SlotIx) (f : Slot → Slot) : (s.modSlot k f).slot k = f (s.slot k) := by
  simp [State.modSlot]

theorem State.slot_modSlot_of_ne (s : State) {j k : SlotIx} (h : j ≠ k) (f : Slot → Slot) :
    (s.modSlot k f).slot j = s.slot j := State.slot_putSlot_of_ne s h _

theorem State.slot_modSlot (s : State) (j k : SlotIx) (f : Slot → Slot) :
    (s.modSlot k f).slot j = if j = k then f (s.slot k) else s.slot j := State.slot_putSlot s j k _

@[simp] theorem State.slot_mapSlots (s : State) (f : SlotIx → Slot → Slot) (k : SlotIx) :
    (s.mapSlots f).slot k = f k (s.slot k) := by
  simp [State.slot, State.mapSlots]

/-- Two states with the same slots read alike at every index, and the other way round. -/
theorem State.slots_ext {s t : State} (h : ∀ k, t.slot k = s.slot k) : t.slots = s.slots := by
  apply Vector.ext
  intro i hi
  exact h ⟨i, hi⟩

/-! ## The port that an update names -/

theorem State.port_congr {s t : State} (h : t.ports = s.ports) (p : Port) : t.port p = s.port p := by
  simp only [State.port, h]

@[simp] theorem State.port_modPort_self (s : State) (p : Port) (f : PortState → PortState) :
    (s.modPort p f).port p = f (s.port p) := by cases p <;> rfl

theorem State.port_modPort_of_ne (s : State) {p q : Port} (h : q ≠ p) (f : PortState → PortState) :
    (s.modPort p f).port q = s.port q := Pair.at_put_of_ne _ h _

@[simp] theorem State.port_modPort_other (s : State) (p : Port) (f : PortState → PortState) :
    (s.modPort p f).port (otherPort p) = s.port (otherPort p) := by cases p <;> rfl

theorem State.port_modPort (s : State) (p q : Port) (f : PortState → PortState) :
    (s.modPort p f).port q = if q = p then f (s.port p) else s.port q := by
  by_cases h : q = p
  · subst h; simp
  · simp [h, State.port_modPort_of_ne]

@[simp] theorem State.modPort_modPort_self (s : State) (p : Port) (f g : PortState → PortState) :
    (s.modPort p f).modPort p g = s.modPort p fun q => g (f q) := by cases p <;> rfl

theorem State.modPort_of_eq (s : State) (p : Port) (f : PortState → PortState) (h : f (s.port p) = s.port p) :
    s.modPort p f = s := by
  simp only [State.modPort, State.port] at *
  rw [h]
  simp

/-! ## The receiver that an update names -/

@[simp] theorem State.receiver_putReceiver_self (s : State) (f : Feed) (r : Receiver) : (s.putReceiver f r).receiver f = r := by
  cases f <;> rfl

theorem State.receiver_putReceiver_of_ne (s : State) {f g : Feed} (h : g ≠ f) (r : Receiver) :
    (s.putReceiver f r).receiver g = s.receiver g := by
  cases f <;> cases g <;> first | rfl | exact absurd rfl h

/-! ## Fields left alone -/

/-! ### putSlot -/

@[simp] theorem State.putSlot_pending (s : State) (k : SlotIx) (x : Slot) : (s.putSlot k x).pending = s.pending := rfl
@[simp] theorem State.putSlot_wide (s : State) (k : SlotIx) (x : Slot) : (s.putSlot k x).wide = s.wide := rfl
@[simp] theorem State.putSlot_generation (s : State) (k : SlotIx) (x : Slot) : (s.putSlot k x).generation = s.generation := rfl
@[simp] theorem State.putSlot_changes (s : State) (k : SlotIx) (x : Slot) : (s.putSlot k x).changes = s.changes := rfl
@[simp] theorem State.putSlot_engine (s : State) (k : SlotIx) (x : Slot) : (s.putSlot k x).engine = s.engine := rfl
@[simp] theorem State.putSlot_feeds (s : State) (k : SlotIx) (x : Slot) : (s.putSlot k x).feeds = s.feeds := rfl
@[simp] theorem State.putSlot_monitorIn (s : State) (k : SlotIx) (x : Slot) : (s.putSlot k x).monitorIn = s.monitorIn := rfl
@[simp] theorem State.putSlot_bEff (s : State) (k : SlotIx) (x : Slot) : (s.putSlot k x).bEff = s.bEff := rfl
@[simp] theorem State.putSlot_out (s : State) (k : SlotIx) (x : Slot) : (s.putSlot k x).out = s.out := rfl
@[simp] theorem State.putSlot_store (s : State) (k : SlotIx) (x : Slot) : (s.putSlot k x).store = s.store := rfl
@[simp] theorem State.putSlot_ports (s : State) (k : SlotIx) (x : Slot) : (s.putSlot k x).ports = s.ports := rfl
@[simp] theorem State.putSlot_protHi (s : State) (k : SlotIx) (x : Slot) : (s.putSlot k x).protHi = s.protHi := rfl
@[simp] theorem State.putSlot_protLo (s : State) (k : SlotIx) (x : Slot) : (s.putSlot k x).protLo = s.protLo := rfl
@[simp] theorem State.putSlot_resetHeld (s : State) (k : SlotIx) (x : Slot) : (s.putSlot k x).resetHeld = s.resetHeld := rfl
@[simp] theorem State.putSlot_now (s : State) (k : SlotIx) (x : Slot) : (s.putSlot k x).now = s.now := rfl
@[simp] theorem State.putSlot_fresh (s : State) (k : SlotIx) (x : Slot) : (s.putSlot k x).fresh = s.fresh := rfl
@[simp] theorem State.port_putSlot (s : State) (k : SlotIx) (x : Slot) (i : Port) : (s.putSlot k x).port i = s.port i := rfl
@[simp] theorem State.receiver_putSlot (s : State) (k : SlotIx) (x : Slot) (i : Feed) : (s.putSlot k x).receiver i = s.receiver i := by cases i <;> rfl

/-! ### modSlot -/

@[simp] theorem State.modSlot_pending (s : State) (k : SlotIx) (f : Slot → Slot) : (s.modSlot k f).pending = s.pending := rfl
@[simp] theorem State.modSlot_wide (s : State) (k : SlotIx) (f : Slot → Slot) : (s.modSlot k f).wide = s.wide := rfl
@[simp] theorem State.modSlot_generation (s : State) (k : SlotIx) (f : Slot → Slot) : (s.modSlot k f).generation = s.generation := rfl
@[simp] theorem State.modSlot_changes (s : State) (k : SlotIx) (f : Slot → Slot) : (s.modSlot k f).changes = s.changes := rfl
@[simp] theorem State.modSlot_engine (s : State) (k : SlotIx) (f : Slot → Slot) : (s.modSlot k f).engine = s.engine := rfl
@[simp] theorem State.modSlot_feeds (s : State) (k : SlotIx) (f : Slot → Slot) : (s.modSlot k f).feeds = s.feeds := rfl
@[simp] theorem State.modSlot_monitorIn (s : State) (k : SlotIx) (f : Slot → Slot) : (s.modSlot k f).monitorIn = s.monitorIn := rfl
@[simp] theorem State.modSlot_bEff (s : State) (k : SlotIx) (f : Slot → Slot) : (s.modSlot k f).bEff = s.bEff := rfl
@[simp] theorem State.modSlot_out (s : State) (k : SlotIx) (f : Slot → Slot) : (s.modSlot k f).out = s.out := rfl
@[simp] theorem State.modSlot_store (s : State) (k : SlotIx) (f : Slot → Slot) : (s.modSlot k f).store = s.store := rfl
@[simp] theorem State.modSlot_ports (s : State) (k : SlotIx) (f : Slot → Slot) : (s.modSlot k f).ports = s.ports := rfl
@[simp] theorem State.modSlot_protHi (s : State) (k : SlotIx) (f : Slot → Slot) : (s.modSlot k f).protHi = s.protHi := rfl
@[simp] theorem State.modSlot_protLo (s : State) (k : SlotIx) (f : Slot → Slot) : (s.modSlot k f).protLo = s.protLo := rfl
@[simp] theorem State.modSlot_resetHeld (s : State) (k : SlotIx) (f : Slot → Slot) : (s.modSlot k f).resetHeld = s.resetHeld := rfl
@[simp] theorem State.modSlot_now (s : State) (k : SlotIx) (f : Slot → Slot) : (s.modSlot k f).now = s.now := rfl
@[simp] theorem State.modSlot_fresh (s : State) (k : SlotIx) (f : Slot → Slot) : (s.modSlot k f).fresh = s.fresh := rfl
@[simp] theorem State.port_modSlot (s : State) (k : SlotIx) (f : Slot → Slot) (i : Port) : (s.modSlot k f).port i = s.port i := rfl
@[simp] theorem State.receiver_modSlot (s : State) (k : SlotIx) (f : Slot → Slot) (i : Feed) : (s.modSlot k f).receiver i = s.receiver i := by cases i <;> rfl

/-! ### mapSlots -/

@[simp] theorem State.mapSlots_pending (s : State) (f : SlotIx → Slot → Slot) : (s.mapSlots f).pending = s.pending := by simp only [State.mapSlots]
@[simp] theorem State.mapSlots_wide (s : State) (f : SlotIx → Slot → Slot) : (s.mapSlots f).wide = s.wide := by simp only [State.mapSlots]
@[simp] theorem State.mapSlots_generation (s : State) (f : SlotIx → Slot → Slot) : (s.mapSlots f).generation = s.generation := by simp only [State.mapSlots]
@[simp] theorem State.mapSlots_changes (s : State) (f : SlotIx → Slot → Slot) : (s.mapSlots f).changes = s.changes := by simp only [State.mapSlots]
@[simp] theorem State.mapSlots_engine (s : State) (f : SlotIx → Slot → Slot) : (s.mapSlots f).engine = s.engine := by simp only [State.mapSlots]
@[simp] theorem State.mapSlots_feeds (s : State) (f : SlotIx → Slot → Slot) : (s.mapSlots f).feeds = s.feeds := by simp only [State.mapSlots]
@[simp] theorem State.mapSlots_monitorIn (s : State) (f : SlotIx → Slot → Slot) : (s.mapSlots f).monitorIn = s.monitorIn := by simp only [State.mapSlots]
@[simp] theorem State.mapSlots_bEff (s : State) (f : SlotIx → Slot → Slot) : (s.mapSlots f).bEff = s.bEff := by simp only [State.mapSlots]
@[simp] theorem State.mapSlots_out (s : State) (f : SlotIx → Slot → Slot) : (s.mapSlots f).out = s.out := by simp only [State.mapSlots]
@[simp] theorem State.mapSlots_store (s : State) (f : SlotIx → Slot → Slot) : (s.mapSlots f).store = s.store := by simp only [State.mapSlots]
@[simp] theorem State.mapSlots_ports (s : State) (f : SlotIx → Slot → Slot) : (s.mapSlots f).ports = s.ports := by simp only [State.mapSlots]
@[simp] theorem State.mapSlots_protHi (s : State) (f : SlotIx → Slot → Slot) : (s.mapSlots f).protHi = s.protHi := by simp only [State.mapSlots]
@[simp] theorem State.mapSlots_protLo (s : State) (f : SlotIx → Slot → Slot) : (s.mapSlots f).protLo = s.protLo := by simp only [State.mapSlots]
@[simp] theorem State.mapSlots_resetHeld (s : State) (f : SlotIx → Slot → Slot) : (s.mapSlots f).resetHeld = s.resetHeld := by simp only [State.mapSlots]
@[simp] theorem State.mapSlots_now (s : State) (f : SlotIx → Slot → Slot) : (s.mapSlots f).now = s.now := by simp only [State.mapSlots]
@[simp] theorem State.mapSlots_fresh (s : State) (f : SlotIx → Slot → Slot) : (s.mapSlots f).fresh = s.fresh := by simp only [State.mapSlots]
@[simp] theorem State.port_mapSlots (s : State) (f : SlotIx → Slot → Slot) (i : Port) : (s.mapSlots f).port i = s.port i := State.port_congr (State.mapSlots_ports s f) i
@[simp] theorem State.receiver_mapSlots (s : State) (f : SlotIx → Slot → Slot) (i : Feed) : (s.mapSlots f).receiver i = s.receiver i := by cases i <;> simp only [State.receiver, State.mapSlots_feeds]

/-! ### govern -/

@[simp] theorem State.govern_pending (s : State) : (s.govern).pending = s.pending := by simp only [State.govern, State.mapSlots_pending]
@[simp] theorem State.govern_wide (s : State) : (s.govern).wide = s.wide := by simp only [State.govern, State.mapSlots_wide]
@[simp] theorem State.govern_generation (s : State) : (s.govern).generation = s.generation := by simp only [State.govern, State.mapSlots_generation]
@[simp] theorem State.govern_changes (s : State) : (s.govern).changes = s.changes := by simp only [State.govern, State.mapSlots_changes]
@[simp] theorem State.govern_engine (s : State) : (s.govern).engine = s.engine := by simp only [State.govern, State.mapSlots_engine]
@[simp] theorem State.govern_feeds (s : State) : (s.govern).feeds = s.feeds := by simp only [State.govern, State.mapSlots_feeds]
@[simp] theorem State.govern_monitorIn (s : State) : (s.govern).monitorIn = s.monitorIn := by simp only [State.govern, State.mapSlots_monitorIn]
@[simp] theorem State.govern_bEff (s : State) : (s.govern).bEff = s.bEff := by simp only [State.govern, State.mapSlots_bEff]
@[simp] theorem State.govern_out (s : State) : (s.govern).out = s.out := by simp only [State.govern, State.mapSlots_out]
@[simp] theorem State.govern_store (s : State) : (s.govern).store = s.store := by simp only [State.govern, State.mapSlots_store]
@[simp] theorem State.govern_ports (s : State) : (s.govern).ports = s.ports := by simp only [State.govern, State.mapSlots_ports]
@[simp] theorem State.govern_protHi (s : State) : (s.govern).protHi = s.protHi := by simp only [State.govern, State.mapSlots_protHi]
@[simp] theorem State.govern_protLo (s : State) : (s.govern).protLo = s.protLo := by simp only [State.govern, State.mapSlots_protLo]
@[simp] theorem State.govern_resetHeld (s : State) : (s.govern).resetHeld = s.resetHeld := by simp only [State.govern, State.mapSlots_resetHeld]
@[simp] theorem State.govern_now (s : State) : (s.govern).now = s.now := by simp only [State.govern, State.mapSlots_now]
@[simp] theorem State.govern_fresh (s : State) : (s.govern).fresh = s.fresh := by simp only [State.govern, State.mapSlots_fresh]
@[simp] theorem State.port_govern (s : State) (i : Port) : (s.govern).port i = s.port i := State.port_congr (State.govern_ports s) i
@[simp] theorem State.receiver_govern (s : State) (i : Feed) : (s.govern).receiver i = s.receiver i := by cases i <;> simp only [State.receiver, State.govern_feeds]

/-! ### reactSlot -/

@[simp] theorem State.reactSlot_pending (s : State) (k : SlotIx) : (s.reactSlot k).pending = s.pending := by simp only [State.reactSlot, State.modSlot_pending]
@[simp] theorem State.reactSlot_wide (s : State) (k : SlotIx) : (s.reactSlot k).wide = s.wide := by simp only [State.reactSlot, State.modSlot_wide]
@[simp] theorem State.reactSlot_generation (s : State) (k : SlotIx) : (s.reactSlot k).generation = s.generation := by simp only [State.reactSlot, State.modSlot_generation]
@[simp] theorem State.reactSlot_changes (s : State) (k : SlotIx) : (s.reactSlot k).changes = s.changes := by simp only [State.reactSlot, State.modSlot_changes]
@[simp] theorem State.reactSlot_engine (s : State) (k : SlotIx) : (s.reactSlot k).engine = s.engine := by simp only [State.reactSlot, State.modSlot_engine]
@[simp] theorem State.reactSlot_feeds (s : State) (k : SlotIx) : (s.reactSlot k).feeds = s.feeds := by simp only [State.reactSlot, State.modSlot_feeds]
@[simp] theorem State.reactSlot_monitorIn (s : State) (k : SlotIx) : (s.reactSlot k).monitorIn = s.monitorIn := by simp only [State.reactSlot, State.modSlot_monitorIn]
@[simp] theorem State.reactSlot_bEff (s : State) (k : SlotIx) : (s.reactSlot k).bEff = s.bEff := by simp only [State.reactSlot, State.modSlot_bEff]
@[simp] theorem State.reactSlot_out (s : State) (k : SlotIx) : (s.reactSlot k).out = s.out := by simp only [State.reactSlot, State.modSlot_out]
@[simp] theorem State.reactSlot_store (s : State) (k : SlotIx) : (s.reactSlot k).store = s.store := by simp only [State.reactSlot, State.modSlot_store]
@[simp] theorem State.reactSlot_ports (s : State) (k : SlotIx) : (s.reactSlot k).ports = s.ports := by simp only [State.reactSlot, State.modSlot_ports]
@[simp] theorem State.reactSlot_protHi (s : State) (k : SlotIx) : (s.reactSlot k).protHi = s.protHi := by simp only [State.reactSlot, State.modSlot_protHi]
@[simp] theorem State.reactSlot_protLo (s : State) (k : SlotIx) : (s.reactSlot k).protLo = s.protLo := by simp only [State.reactSlot, State.modSlot_protLo]
@[simp] theorem State.reactSlot_resetHeld (s : State) (k : SlotIx) : (s.reactSlot k).resetHeld = s.resetHeld := by simp only [State.reactSlot, State.modSlot_resetHeld]
@[simp] theorem State.reactSlot_now (s : State) (k : SlotIx) : (s.reactSlot k).now = s.now := by simp only [State.reactSlot, State.modSlot_now]
@[simp] theorem State.reactSlot_fresh (s : State) (k : SlotIx) : (s.reactSlot k).fresh = s.fresh := by simp only [State.reactSlot, State.modSlot_fresh]
@[simp] theorem State.port_reactSlot (s : State) (k : SlotIx) (i : Port) : (s.reactSlot k).port i = s.port i := State.port_congr (State.reactSlot_ports s k) i
@[simp] theorem State.receiver_reactSlot (s : State) (k : SlotIx) (i : Feed) : (s.reactSlot k).receiver i = s.receiver i := by cases i <;> simp only [State.receiver, State.reactSlot_feeds]

/-! ### reactAll -/

@[simp] theorem State.reactAll_pending (s : State) : (s.reactAll).pending = s.pending := by simp only [State.reactAll, State.mapSlots_pending]
@[simp] theorem State.reactAll_wide (s : State) : (s.reactAll).wide = s.wide := by simp only [State.reactAll, State.mapSlots_wide]
@[simp] theorem State.reactAll_generation (s : State) : (s.reactAll).generation = s.generation := by simp only [State.reactAll, State.mapSlots_generation]
@[simp] theorem State.reactAll_changes (s : State) : (s.reactAll).changes = s.changes := by simp only [State.reactAll, State.mapSlots_changes]
@[simp] theorem State.reactAll_engine (s : State) : (s.reactAll).engine = s.engine := by simp only [State.reactAll, State.mapSlots_engine]
@[simp] theorem State.reactAll_feeds (s : State) : (s.reactAll).feeds = s.feeds := by simp only [State.reactAll, State.mapSlots_feeds]
@[simp] theorem State.reactAll_monitorIn (s : State) : (s.reactAll).monitorIn = s.monitorIn := by simp only [State.reactAll, State.mapSlots_monitorIn]
@[simp] theorem State.reactAll_bEff (s : State) : (s.reactAll).bEff = s.bEff := by simp only [State.reactAll, State.mapSlots_bEff]
@[simp] theorem State.reactAll_out (s : State) : (s.reactAll).out = s.out := by simp only [State.reactAll, State.mapSlots_out]
@[simp] theorem State.reactAll_store (s : State) : (s.reactAll).store = s.store := by simp only [State.reactAll, State.mapSlots_store]
@[simp] theorem State.reactAll_ports (s : State) : (s.reactAll).ports = s.ports := by simp only [State.reactAll, State.mapSlots_ports]
@[simp] theorem State.reactAll_protHi (s : State) : (s.reactAll).protHi = s.protHi := by simp only [State.reactAll, State.mapSlots_protHi]
@[simp] theorem State.reactAll_protLo (s : State) : (s.reactAll).protLo = s.protLo := by simp only [State.reactAll, State.mapSlots_protLo]
@[simp] theorem State.reactAll_resetHeld (s : State) : (s.reactAll).resetHeld = s.resetHeld := by simp only [State.reactAll, State.mapSlots_resetHeld]
@[simp] theorem State.reactAll_now (s : State) : (s.reactAll).now = s.now := by simp only [State.reactAll, State.mapSlots_now]
@[simp] theorem State.reactAll_fresh (s : State) : (s.reactAll).fresh = s.fresh := by simp only [State.reactAll, State.mapSlots_fresh]
@[simp] theorem State.port_reactAll (s : State) (i : Port) : (s.reactAll).port i = s.port i := State.port_congr (State.reactAll_ports s) i
@[simp] theorem State.receiver_reactAll (s : State) (i : Feed) : (s.reactAll).receiver i = s.receiver i := by cases i <;> simp only [State.receiver, State.reactAll_feeds]

/-! ### reformSlot -/

@[simp] theorem State.reformSlot_pending (s : State) (k : SlotIx) : (s.reformSlot k).pending = s.pending := by simp only [State.reformSlot, State.govern_pending, State.reactSlot_pending]
@[simp] theorem State.reformSlot_wide (s : State) (k : SlotIx) : (s.reformSlot k).wide = s.wide := by simp only [State.reformSlot, State.govern_wide, State.reactSlot_wide]
@[simp] theorem State.reformSlot_generation (s : State) (k : SlotIx) : (s.reformSlot k).generation = s.generation := by simp only [State.reformSlot, State.govern_generation, State.reactSlot_generation]
@[simp] theorem State.reformSlot_changes (s : State) (k : SlotIx) : (s.reformSlot k).changes = s.changes := by simp only [State.reformSlot, State.govern_changes, State.reactSlot_changes]
@[simp] theorem State.reformSlot_engine (s : State) (k : SlotIx) : (s.reformSlot k).engine = s.engine := by simp only [State.reformSlot, State.govern_engine, State.reactSlot_engine]
@[simp] theorem State.reformSlot_feeds (s : State) (k : SlotIx) : (s.reformSlot k).feeds = s.feeds := by simp only [State.reformSlot, State.govern_feeds, State.reactSlot_feeds]
@[simp] theorem State.reformSlot_monitorIn (s : State) (k : SlotIx) : (s.reformSlot k).monitorIn = s.monitorIn := by simp only [State.reformSlot, State.govern_monitorIn, State.reactSlot_monitorIn]
@[simp] theorem State.reformSlot_bEff (s : State) (k : SlotIx) : (s.reformSlot k).bEff = s.bEff := by simp only [State.reformSlot, State.govern_bEff, State.reactSlot_bEff]
@[simp] theorem State.reformSlot_out (s : State) (k : SlotIx) : (s.reformSlot k).out = s.out := by simp only [State.reformSlot, State.govern_out, State.reactSlot_out]
@[simp] theorem State.reformSlot_store (s : State) (k : SlotIx) : (s.reformSlot k).store = s.store := by simp only [State.reformSlot, State.govern_store, State.reactSlot_store]
@[simp] theorem State.reformSlot_ports (s : State) (k : SlotIx) : (s.reformSlot k).ports = s.ports := by simp only [State.reformSlot, State.govern_ports, State.reactSlot_ports]
@[simp] theorem State.reformSlot_protHi (s : State) (k : SlotIx) : (s.reformSlot k).protHi = s.protHi := by simp only [State.reformSlot, State.govern_protHi, State.reactSlot_protHi]
@[simp] theorem State.reformSlot_protLo (s : State) (k : SlotIx) : (s.reformSlot k).protLo = s.protLo := by simp only [State.reformSlot, State.govern_protLo, State.reactSlot_protLo]
@[simp] theorem State.reformSlot_resetHeld (s : State) (k : SlotIx) : (s.reformSlot k).resetHeld = s.resetHeld := by simp only [State.reformSlot, State.govern_resetHeld, State.reactSlot_resetHeld]
@[simp] theorem State.reformSlot_now (s : State) (k : SlotIx) : (s.reformSlot k).now = s.now := by simp only [State.reformSlot, State.govern_now, State.reactSlot_now]
@[simp] theorem State.reformSlot_fresh (s : State) (k : SlotIx) : (s.reformSlot k).fresh = s.fresh := by simp only [State.reformSlot, State.govern_fresh, State.reactSlot_fresh]
@[simp] theorem State.port_reformSlot (s : State) (k : SlotIx) (i : Port) : (s.reformSlot k).port i = s.port i := State.port_congr (State.reformSlot_ports s k) i
@[simp] theorem State.receiver_reformSlot (s : State) (k : SlotIx) (i : Feed) : (s.reformSlot k).receiver i = s.receiver i := by cases i <;> simp only [State.receiver, State.reformSlot_feeds]

/-! ### reformAll -/

@[simp] theorem State.reformAll_pending (s : State) : (s.reformAll).pending = s.pending := by simp only [State.reformAll, State.govern_pending, State.reactAll_pending]
@[simp] theorem State.reformAll_wide (s : State) : (s.reformAll).wide = s.wide := by simp only [State.reformAll, State.govern_wide, State.reactAll_wide]
@[simp] theorem State.reformAll_generation (s : State) : (s.reformAll).generation = s.generation := by simp only [State.reformAll, State.govern_generation, State.reactAll_generation]
@[simp] theorem State.reformAll_changes (s : State) : (s.reformAll).changes = s.changes := by simp only [State.reformAll, State.govern_changes, State.reactAll_changes]
@[simp] theorem State.reformAll_engine (s : State) : (s.reformAll).engine = s.engine := by simp only [State.reformAll, State.govern_engine, State.reactAll_engine]
@[simp] theorem State.reformAll_feeds (s : State) : (s.reformAll).feeds = s.feeds := by simp only [State.reformAll, State.govern_feeds, State.reactAll_feeds]
@[simp] theorem State.reformAll_monitorIn (s : State) : (s.reformAll).monitorIn = s.monitorIn := by simp only [State.reformAll, State.govern_monitorIn, State.reactAll_monitorIn]
@[simp] theorem State.reformAll_bEff (s : State) : (s.reformAll).bEff = s.bEff := by simp only [State.reformAll, State.govern_bEff, State.reactAll_bEff]
@[simp] theorem State.reformAll_out (s : State) : (s.reformAll).out = s.out := by simp only [State.reformAll, State.govern_out, State.reactAll_out]
@[simp] theorem State.reformAll_store (s : State) : (s.reformAll).store = s.store := by simp only [State.reformAll, State.govern_store, State.reactAll_store]
@[simp] theorem State.reformAll_ports (s : State) : (s.reformAll).ports = s.ports := by simp only [State.reformAll, State.govern_ports, State.reactAll_ports]
@[simp] theorem State.reformAll_protHi (s : State) : (s.reformAll).protHi = s.protHi := by simp only [State.reformAll, State.govern_protHi, State.reactAll_protHi]
@[simp] theorem State.reformAll_protLo (s : State) : (s.reformAll).protLo = s.protLo := by simp only [State.reformAll, State.govern_protLo, State.reactAll_protLo]
@[simp] theorem State.reformAll_resetHeld (s : State) : (s.reformAll).resetHeld = s.resetHeld := by simp only [State.reformAll, State.govern_resetHeld, State.reactAll_resetHeld]
@[simp] theorem State.reformAll_now (s : State) : (s.reformAll).now = s.now := by simp only [State.reformAll, State.govern_now, State.reactAll_now]
@[simp] theorem State.reformAll_fresh (s : State) : (s.reformAll).fresh = s.fresh := by simp only [State.reformAll, State.govern_fresh, State.reactAll_fresh]
@[simp] theorem State.port_reformAll (s : State) (i : Port) : (s.reformAll).port i = s.port i := State.port_congr (State.reformAll_ports s) i
@[simp] theorem State.receiver_reformAll (s : State) (i : Feed) : (s.reformAll).receiver i = s.receiver i := by cases i <;> simp only [State.receiver, State.reformAll_feeds]

/-! ### forceOff -/

@[simp] theorem State.forceOff_pending (s : State) : (s.forceOff).pending = s.pending := by simp only [State.forceOff, State.govern_pending, State.mapSlots_pending]
@[simp] theorem State.forceOff_wide (s : State) : (s.forceOff).wide = s.wide := by simp only [State.forceOff, State.govern_wide, State.mapSlots_wide]
@[simp] theorem State.forceOff_generation (s : State) : (s.forceOff).generation = s.generation := by simp only [State.forceOff, State.govern_generation, State.mapSlots_generation]
@[simp] theorem State.forceOff_changes (s : State) : (s.forceOff).changes = s.changes := by simp only [State.forceOff, State.govern_changes, State.mapSlots_changes]
@[simp] theorem State.forceOff_engine (s : State) : (s.forceOff).engine = s.engine := by simp only [State.forceOff, State.govern_engine, State.mapSlots_engine]
@[simp] theorem State.forceOff_feeds (s : State) : (s.forceOff).feeds = s.feeds := by simp only [State.forceOff, State.govern_feeds, State.mapSlots_feeds]
@[simp] theorem State.forceOff_monitorIn (s : State) : (s.forceOff).monitorIn = s.monitorIn := by simp only [State.forceOff, State.govern_monitorIn, State.mapSlots_monitorIn]
@[simp] theorem State.forceOff_bEff (s : State) : (s.forceOff).bEff = s.bEff := by simp only [State.forceOff, State.govern_bEff, State.mapSlots_bEff]
@[simp] theorem State.forceOff_out (s : State) : (s.forceOff).out = s.out := by simp only [State.forceOff, State.govern_out, State.mapSlots_out]
@[simp] theorem State.forceOff_store (s : State) : (s.forceOff).store = s.store := by simp only [State.forceOff, State.govern_store, State.mapSlots_store]
@[simp] theorem State.forceOff_ports (s : State) : (s.forceOff).ports = s.ports := by simp only [State.forceOff, State.govern_ports, State.mapSlots_ports]
@[simp] theorem State.forceOff_protHi (s : State) : (s.forceOff).protHi = s.protHi := by simp only [State.forceOff, State.govern_protHi, State.mapSlots_protHi]
@[simp] theorem State.forceOff_protLo (s : State) : (s.forceOff).protLo = s.protLo := by simp only [State.forceOff, State.govern_protLo, State.mapSlots_protLo]
@[simp] theorem State.forceOff_resetHeld (s : State) : (s.forceOff).resetHeld = s.resetHeld := by simp only [State.forceOff, State.govern_resetHeld, State.mapSlots_resetHeld]
@[simp] theorem State.forceOff_now (s : State) : (s.forceOff).now = s.now := by simp only [State.forceOff, State.govern_now, State.mapSlots_now]
@[simp] theorem State.forceOff_fresh (s : State) : (s.forceOff).fresh = s.fresh := by simp only [State.forceOff, State.govern_fresh, State.mapSlots_fresh]
@[simp] theorem State.port_forceOff (s : State) (i : Port) : (s.forceOff).port i = s.port i := State.port_congr (State.forceOff_ports s) i
@[simp] theorem State.receiver_forceOff (s : State) (i : Feed) : (s.forceOff).receiver i = s.receiver i := by cases i <;> simp only [State.receiver, State.forceOff_feeds]

/-! ### applyPower -/

@[simp] theorem State.applyPower_pending (s : State) (k : SlotIx) (p : Nat) : (s.applyPower k p).pending = s.pending := by simp only [State.applyPower, State.govern_pending, State.modSlot_pending]
@[simp] theorem State.applyPower_wide (s : State) (k : SlotIx) (p : Nat) : (s.applyPower k p).wide = s.wide := by simp only [State.applyPower, State.govern_wide, State.modSlot_wide]
@[simp] theorem State.applyPower_generation (s : State) (k : SlotIx) (p : Nat) : (s.applyPower k p).generation = s.generation := by simp only [State.applyPower, State.govern_generation, State.modSlot_generation]
@[simp] theorem State.applyPower_changes (s : State) (k : SlotIx) (p : Nat) : (s.applyPower k p).changes = s.changes := by simp only [State.applyPower, State.govern_changes, State.modSlot_changes]
@[simp] theorem State.applyPower_engine (s : State) (k : SlotIx) (p : Nat) : (s.applyPower k p).engine = s.engine := by simp only [State.applyPower, State.govern_engine, State.modSlot_engine]
@[simp] theorem State.applyPower_feeds (s : State) (k : SlotIx) (p : Nat) : (s.applyPower k p).feeds = s.feeds := by simp only [State.applyPower, State.govern_feeds, State.modSlot_feeds]
@[simp] theorem State.applyPower_monitorIn (s : State) (k : SlotIx) (p : Nat) : (s.applyPower k p).monitorIn = s.monitorIn := by simp only [State.applyPower, State.govern_monitorIn, State.modSlot_monitorIn]
@[simp] theorem State.applyPower_bEff (s : State) (k : SlotIx) (p : Nat) : (s.applyPower k p).bEff = s.bEff := by simp only [State.applyPower, State.govern_bEff, State.modSlot_bEff]
@[simp] theorem State.applyPower_out (s : State) (k : SlotIx) (p : Nat) : (s.applyPower k p).out = s.out := by simp only [State.applyPower, State.govern_out, State.modSlot_out]
@[simp] theorem State.applyPower_store (s : State) (k : SlotIx) (p : Nat) : (s.applyPower k p).store = s.store := by simp only [State.applyPower, State.govern_store, State.modSlot_store]
@[simp] theorem State.applyPower_ports (s : State) (k : SlotIx) (p : Nat) : (s.applyPower k p).ports = s.ports := by simp only [State.applyPower, State.govern_ports, State.modSlot_ports]
@[simp] theorem State.applyPower_protHi (s : State) (k : SlotIx) (p : Nat) : (s.applyPower k p).protHi = s.protHi := by simp only [State.applyPower, State.govern_protHi, State.modSlot_protHi]
@[simp] theorem State.applyPower_protLo (s : State) (k : SlotIx) (p : Nat) : (s.applyPower k p).protLo = s.protLo := by simp only [State.applyPower, State.govern_protLo, State.modSlot_protLo]
@[simp] theorem State.applyPower_resetHeld (s : State) (k : SlotIx) (p : Nat) : (s.applyPower k p).resetHeld = s.resetHeld := by simp only [State.applyPower, State.govern_resetHeld, State.modSlot_resetHeld]
@[simp] theorem State.applyPower_now (s : State) (k : SlotIx) (p : Nat) : (s.applyPower k p).now = s.now := by simp only [State.applyPower, State.govern_now, State.modSlot_now]
@[simp] theorem State.applyPower_fresh (s : State) (k : SlotIx) (p : Nat) : (s.applyPower k p).fresh = s.fresh := by simp only [State.applyPower, State.govern_fresh, State.modSlot_fresh]
@[simp] theorem State.port_applyPower (s : State) (k : SlotIx) (p : Nat) (i : Port) : (s.applyPower k p).port i = s.port i := State.port_congr (State.applyPower_ports s k p) i
@[simp] theorem State.receiver_applyPower (s : State) (k : SlotIx) (p : Nat) (i : Feed) : (s.applyPower k p).receiver i = s.receiver i := by cases i <;> simp only [State.receiver, State.applyPower_feeds]

/-! ### applyThresholds -/

@[simp] theorem State.applyThresholds_pending (s : State) (k : SlotIx) (t : Int) (h l r : Nat) : (s.applyThresholds k t h l r).pending = s.pending := rfl
@[simp] theorem State.applyThresholds_wide (s : State) (k : SlotIx) (t : Int) (h l r : Nat) : (s.applyThresholds k t h l r).wide = s.wide := rfl
@[simp] theorem State.applyThresholds_generation (s : State) (k : SlotIx) (t : Int) (h l r : Nat) : (s.applyThresholds k t h l r).generation = s.generation := rfl
@[simp] theorem State.applyThresholds_changes (s : State) (k : SlotIx) (t : Int) (h l r : Nat) : (s.applyThresholds k t h l r).changes = s.changes := rfl
@[simp] theorem State.applyThresholds_engine (s : State) (k : SlotIx) (t : Int) (h l r : Nat) : (s.applyThresholds k t h l r).engine = s.engine := rfl
@[simp] theorem State.applyThresholds_feeds (s : State) (k : SlotIx) (t : Int) (h l r : Nat) : (s.applyThresholds k t h l r).feeds = s.feeds := rfl
@[simp] theorem State.applyThresholds_monitorIn (s : State) (k : SlotIx) (t : Int) (h l r : Nat) : (s.applyThresholds k t h l r).monitorIn = s.monitorIn := rfl
@[simp] theorem State.applyThresholds_bEff (s : State) (k : SlotIx) (t : Int) (h l r : Nat) : (s.applyThresholds k t h l r).bEff = s.bEff := rfl
@[simp] theorem State.applyThresholds_out (s : State) (k : SlotIx) (t : Int) (h l r : Nat) : (s.applyThresholds k t h l r).out = s.out := rfl
@[simp] theorem State.applyThresholds_store (s : State) (k : SlotIx) (t : Int) (h l r : Nat) : (s.applyThresholds k t h l r).store = s.store := rfl
@[simp] theorem State.applyThresholds_ports (s : State) (k : SlotIx) (t : Int) (h l r : Nat) : (s.applyThresholds k t h l r).ports = s.ports := rfl
@[simp] theorem State.applyThresholds_protHi (s : State) (k : SlotIx) (t : Int) (h l r : Nat) : (s.applyThresholds k t h l r).protHi = s.protHi := rfl
@[simp] theorem State.applyThresholds_protLo (s : State) (k : SlotIx) (t : Int) (h l r : Nat) : (s.applyThresholds k t h l r).protLo = s.protLo := rfl
@[simp] theorem State.applyThresholds_resetHeld (s : State) (k : SlotIx) (t : Int) (h l r : Nat) : (s.applyThresholds k t h l r).resetHeld = s.resetHeld := rfl
@[simp] theorem State.applyThresholds_now (s : State) (k : SlotIx) (t : Int) (h l r : Nat) : (s.applyThresholds k t h l r).now = s.now := rfl
@[simp] theorem State.applyThresholds_fresh (s : State) (k : SlotIx) (t : Int) (h l r : Nat) : (s.applyThresholds k t h l r).fresh = s.fresh := rfl
@[simp] theorem State.port_applyThresholds (s : State) (k : SlotIx) (t : Int) (h l r : Nat) (i : Port) : (s.applyThresholds k t h l r).port i = s.port i := rfl
@[simp] theorem State.receiver_applyThresholds (s : State) (k : SlotIx) (t : Int) (h l r : Nat) (i : Feed) : (s.applyThresholds k t h l r).receiver i = s.receiver i := by cases i <;> rfl

/-! ### formBudget -/

@[simp] theorem State.formBudget_pending (s : State) : (s.formBudget).pending = s.pending := rfl
@[simp] theorem State.formBudget_wide (s : State) : (s.formBudget).wide = s.wide := rfl
@[simp] theorem State.formBudget_generation (s : State) : (s.formBudget).generation = s.generation := rfl
@[simp] theorem State.formBudget_slots (s : State) : (s.formBudget).slots = s.slots := rfl
@[simp] theorem State.formBudget_changes (s : State) : (s.formBudget).changes = s.changes := rfl
@[simp] theorem State.formBudget_engine (s : State) : (s.formBudget).engine = s.engine := rfl
@[simp] theorem State.formBudget_feeds (s : State) : (s.formBudget).feeds = s.feeds := rfl
@[simp] theorem State.formBudget_monitorIn (s : State) : (s.formBudget).monitorIn = s.monitorIn := rfl
@[simp] theorem State.formBudget_out (s : State) : (s.formBudget).out = s.out := rfl
@[simp] theorem State.formBudget_store (s : State) : (s.formBudget).store = s.store := rfl
@[simp] theorem State.formBudget_ports (s : State) : (s.formBudget).ports = s.ports := rfl
@[simp] theorem State.formBudget_protHi (s : State) : (s.formBudget).protHi = s.protHi := rfl
@[simp] theorem State.formBudget_protLo (s : State) : (s.formBudget).protLo = s.protLo := rfl
@[simp] theorem State.formBudget_resetHeld (s : State) : (s.formBudget).resetHeld = s.resetHeld := rfl
@[simp] theorem State.formBudget_now (s : State) : (s.formBudget).now = s.now := rfl
@[simp] theorem State.formBudget_fresh (s : State) : (s.formBudget).fresh = s.fresh := rfl
@[simp] theorem State.slot_formBudget (s : State) (i : SlotIx) : (s.formBudget).slot i = s.slot i := rfl
@[simp] theorem State.port_formBudget (s : State) (i : Port) : (s.formBudget).port i = s.port i := rfl
@[simp] theorem State.receiver_formBudget (s : State) (i : Feed) : (s.formBudget).receiver i = s.receiver i := by cases i <;> rfl

/-! ### formQuiet -/

@[simp] theorem State.formQuiet_pending (s : State) : (s.formQuiet).pending = s.pending := rfl
@[simp] theorem State.formQuiet_wide (s : State) : (s.formQuiet).wide = s.wide := rfl
@[simp] theorem State.formQuiet_generation (s : State) : (s.formQuiet).generation = s.generation := rfl
@[simp] theorem State.formQuiet_slots (s : State) : (s.formQuiet).slots = s.slots := rfl
@[simp] theorem State.formQuiet_changes (s : State) : (s.formQuiet).changes = s.changes := rfl
@[simp] theorem State.formQuiet_engine (s : State) : (s.formQuiet).engine = s.engine := rfl
@[simp] theorem State.formQuiet_feeds (s : State) : (s.formQuiet).feeds = s.feeds := rfl
@[simp] theorem State.formQuiet_monitorIn (s : State) : (s.formQuiet).monitorIn = s.monitorIn := rfl
@[simp] theorem State.formQuiet_bEff (s : State) : (s.formQuiet).bEff = s.bEff := rfl
@[simp] theorem State.formQuiet_store (s : State) : (s.formQuiet).store = s.store := rfl
@[simp] theorem State.formQuiet_ports (s : State) : (s.formQuiet).ports = s.ports := rfl
@[simp] theorem State.formQuiet_protHi (s : State) : (s.formQuiet).protHi = s.protHi := rfl
@[simp] theorem State.formQuiet_protLo (s : State) : (s.formQuiet).protLo = s.protLo := rfl
@[simp] theorem State.formQuiet_resetHeld (s : State) : (s.formQuiet).resetHeld = s.resetHeld := rfl
@[simp] theorem State.formQuiet_now (s : State) : (s.formQuiet).now = s.now := rfl
@[simp] theorem State.formQuiet_fresh (s : State) : (s.formQuiet).fresh = s.fresh := rfl
@[simp] theorem State.slot_formQuiet (s : State) (i : SlotIx) : (s.formQuiet).slot i = s.slot i := rfl
@[simp] theorem State.port_formQuiet (s : State) (i : Port) : (s.formQuiet).port i = s.port i := rfl
@[simp] theorem State.receiver_formQuiet (s : State) (i : Feed) : (s.formQuiet).receiver i = s.receiver i := by cases i <;> rfl

/-! ### setTx -/

@[simp] theorem State.setTx_pending (s : State) (t : TxState) : (s.setTx t).pending = s.pending := rfl
@[simp] theorem State.setTx_wide (s : State) (t : TxState) : (s.setTx t).wide = s.wide := rfl
@[simp] theorem State.setTx_generation (s : State) (t : TxState) : (s.setTx t).generation = s.generation := rfl
@[simp] theorem State.setTx_slots (s : State) (t : TxState) : (s.setTx t).slots = s.slots := rfl
@[simp] theorem State.setTx_changes (s : State) (t : TxState) : (s.setTx t).changes = s.changes := rfl
@[simp] theorem State.setTx_engine (s : State) (t : TxState) : (s.setTx t).engine = s.engine := rfl
@[simp] theorem State.setTx_feeds (s : State) (t : TxState) : (s.setTx t).feeds = s.feeds := rfl
@[simp] theorem State.setTx_monitorIn (s : State) (t : TxState) : (s.setTx t).monitorIn = s.monitorIn := rfl
@[simp] theorem State.setTx_bEff (s : State) (t : TxState) : (s.setTx t).bEff = s.bEff := rfl
@[simp] theorem State.setTx_store (s : State) (t : TxState) : (s.setTx t).store = s.store := rfl
@[simp] theorem State.setTx_protHi (s : State) (t : TxState) : (s.setTx t).protHi = s.protHi := rfl
@[simp] theorem State.setTx_protLo (s : State) (t : TxState) : (s.setTx t).protLo = s.protLo := rfl
@[simp] theorem State.setTx_resetHeld (s : State) (t : TxState) : (s.setTx t).resetHeld = s.resetHeld := rfl
@[simp] theorem State.setTx_now (s : State) (t : TxState) : (s.setTx t).now = s.now := rfl
@[simp] theorem State.setTx_fresh (s : State) (t : TxState) : (s.setTx t).fresh = s.fresh := rfl
@[simp] theorem State.slot_setTx (s : State) (t : TxState) (i : SlotIx) : (s.setTx t).slot i = s.slot i := rfl
@[simp] theorem State.receiver_setTx (s : State) (t : TxState) (i : Feed) : (s.setTx t).receiver i = s.receiver i := by cases i <;> rfl

/-! ### modPort -/

@[simp] theorem State.modPort_pending (s : State) (p : Port) (f : PortState → PortState) : (s.modPort p f).pending = s.pending := rfl
@[simp] theorem State.modPort_wide (s : State) (p : Port) (f : PortState → PortState) : (s.modPort p f).wide = s.wide := rfl
@[simp] theorem State.modPort_generation (s : State) (p : Port) (f : PortState → PortState) : (s.modPort p f).generation = s.generation := rfl
@[simp] theorem State.modPort_slots (s : State) (p : Port) (f : PortState → PortState) : (s.modPort p f).slots = s.slots := rfl
@[simp] theorem State.modPort_changes (s : State) (p : Port) (f : PortState → PortState) : (s.modPort p f).changes = s.changes := rfl
@[simp] theorem State.modPort_engine (s : State) (p : Port) (f : PortState → PortState) : (s.modPort p f).engine = s.engine := rfl
@[simp] theorem State.modPort_feeds (s : State) (p : Port) (f : PortState → PortState) : (s.modPort p f).feeds = s.feeds := rfl
@[simp] theorem State.modPort_monitorIn (s : State) (p : Port) (f : PortState → PortState) : (s.modPort p f).monitorIn = s.monitorIn := rfl
@[simp] theorem State.modPort_bEff (s : State) (p : Port) (f : PortState → PortState) : (s.modPort p f).bEff = s.bEff := rfl
@[simp] theorem State.modPort_out (s : State) (p : Port) (f : PortState → PortState) : (s.modPort p f).out = s.out := rfl
@[simp] theorem State.modPort_store (s : State) (p : Port) (f : PortState → PortState) : (s.modPort p f).store = s.store := rfl
@[simp] theorem State.modPort_protHi (s : State) (p : Port) (f : PortState → PortState) : (s.modPort p f).protHi = s.protHi := rfl
@[simp] theorem State.modPort_protLo (s : State) (p : Port) (f : PortState → PortState) : (s.modPort p f).protLo = s.protLo := rfl
@[simp] theorem State.modPort_resetHeld (s : State) (p : Port) (f : PortState → PortState) : (s.modPort p f).resetHeld = s.resetHeld := rfl
@[simp] theorem State.modPort_now (s : State) (p : Port) (f : PortState → PortState) : (s.modPort p f).now = s.now := rfl
@[simp] theorem State.modPort_fresh (s : State) (p : Port) (f : PortState → PortState) : (s.modPort p f).fresh = s.fresh := rfl
@[simp] theorem State.slot_modPort (s : State) (p : Port) (f : PortState → PortState) (i : SlotIx) : (s.modPort p f).slot i = s.slot i := rfl
@[simp] theorem State.receiver_modPort (s : State) (p : Port) (f : PortState → PortState) (i : Feed) : (s.modPort p f).receiver i = s.receiver i := by cases i <;> rfl

/-! ### latch -/

@[simp] theorem State.latch_pending (s : State) (p : Port) (c : Cause) : (s.latch p c).pending = s.pending := rfl
@[simp] theorem State.latch_wide (s : State) (p : Port) (c : Cause) : (s.latch p c).wide = s.wide := rfl
@[simp] theorem State.latch_generation (s : State) (p : Port) (c : Cause) : (s.latch p c).generation = s.generation := rfl
@[simp] theorem State.latch_slots (s : State) (p : Port) (c : Cause) : (s.latch p c).slots = s.slots := rfl
@[simp] theorem State.latch_changes (s : State) (p : Port) (c : Cause) : (s.latch p c).changes = s.changes := rfl
@[simp] theorem State.latch_engine (s : State) (p : Port) (c : Cause) : (s.latch p c).engine = s.engine := rfl
@[simp] theorem State.latch_feeds (s : State) (p : Port) (c : Cause) : (s.latch p c).feeds = s.feeds := rfl
@[simp] theorem State.latch_monitorIn (s : State) (p : Port) (c : Cause) : (s.latch p c).monitorIn = s.monitorIn := rfl
@[simp] theorem State.latch_bEff (s : State) (p : Port) (c : Cause) : (s.latch p c).bEff = s.bEff := rfl
@[simp] theorem State.latch_out (s : State) (p : Port) (c : Cause) : (s.latch p c).out = s.out := rfl
@[simp] theorem State.latch_store (s : State) (p : Port) (c : Cause) : (s.latch p c).store = s.store := rfl
@[simp] theorem State.latch_protHi (s : State) (p : Port) (c : Cause) : (s.latch p c).protHi = s.protHi := rfl
@[simp] theorem State.latch_protLo (s : State) (p : Port) (c : Cause) : (s.latch p c).protLo = s.protLo := rfl
@[simp] theorem State.latch_resetHeld (s : State) (p : Port) (c : Cause) : (s.latch p c).resetHeld = s.resetHeld := rfl
@[simp] theorem State.latch_now (s : State) (p : Port) (c : Cause) : (s.latch p c).now = s.now := rfl
@[simp] theorem State.latch_fresh (s : State) (p : Port) (c : Cause) : (s.latch p c).fresh = s.fresh := rfl
@[simp] theorem State.slot_latch (s : State) (p : Port) (c : Cause) (i : SlotIx) : (s.latch p c).slot i = s.slot i := rfl
@[simp] theorem State.receiver_latch (s : State) (p : Port) (c : Cause) (i : Feed) : (s.latch p c).receiver i = s.receiver i := by cases i <;> rfl

/-! ### latchBoth -/

@[simp] theorem State.latchBoth_pending (s : State) (c : Cause) : (s.latchBoth c).pending = s.pending := rfl
@[simp] theorem State.latchBoth_wide (s : State) (c : Cause) : (s.latchBoth c).wide = s.wide := rfl
@[simp] theorem State.latchBoth_generation (s : State) (c : Cause) : (s.latchBoth c).generation = s.generation := rfl
@[simp] theorem State.latchBoth_slots (s : State) (c : Cause) : (s.latchBoth c).slots = s.slots := rfl
@[simp] theorem State.latchBoth_changes (s : State) (c : Cause) : (s.latchBoth c).changes = s.changes := rfl
@[simp] theorem State.latchBoth_engine (s : State) (c : Cause) : (s.latchBoth c).engine = s.engine := rfl
@[simp] theorem State.latchBoth_feeds (s : State) (c : Cause) : (s.latchBoth c).feeds = s.feeds := rfl
@[simp] theorem State.latchBoth_monitorIn (s : State) (c : Cause) : (s.latchBoth c).monitorIn = s.monitorIn := rfl
@[simp] theorem State.latchBoth_bEff (s : State) (c : Cause) : (s.latchBoth c).bEff = s.bEff := rfl
@[simp] theorem State.latchBoth_out (s : State) (c : Cause) : (s.latchBoth c).out = s.out := rfl
@[simp] theorem State.latchBoth_store (s : State) (c : Cause) : (s.latchBoth c).store = s.store := rfl
@[simp] theorem State.latchBoth_protHi (s : State) (c : Cause) : (s.latchBoth c).protHi = s.protHi := rfl
@[simp] theorem State.latchBoth_protLo (s : State) (c : Cause) : (s.latchBoth c).protLo = s.protLo := rfl
@[simp] theorem State.latchBoth_resetHeld (s : State) (c : Cause) : (s.latchBoth c).resetHeld = s.resetHeld := rfl
@[simp] theorem State.latchBoth_now (s : State) (c : Cause) : (s.latchBoth c).now = s.now := rfl
@[simp] theorem State.latchBoth_fresh (s : State) (c : Cause) : (s.latchBoth c).fresh = s.fresh := rfl
@[simp] theorem State.slot_latchBoth (s : State) (c : Cause) (i : SlotIx) : (s.latchBoth c).slot i = s.slot i := rfl
@[simp] theorem State.receiver_latchBoth (s : State) (c : Cause) (i : Feed) : (s.latchBoth c).receiver i = s.receiver i := by cases i <;> rfl

/-! ### latchSource -/

@[simp] theorem State.latchSource_pending (s : State) (k : SlotIx) : (s.latchSource k).pending = s.pending := rfl
@[simp] theorem State.latchSource_wide (s : State) (k : SlotIx) : (s.latchSource k).wide = s.wide := rfl
@[simp] theorem State.latchSource_generation (s : State) (k : SlotIx) : (s.latchSource k).generation = s.generation := rfl
@[simp] theorem State.latchSource_slots (s : State) (k : SlotIx) : (s.latchSource k).slots = s.slots := rfl
@[simp] theorem State.latchSource_changes (s : State) (k : SlotIx) : (s.latchSource k).changes = s.changes := rfl
@[simp] theorem State.latchSource_engine (s : State) (k : SlotIx) : (s.latchSource k).engine = s.engine := rfl
@[simp] theorem State.latchSource_feeds (s : State) (k : SlotIx) : (s.latchSource k).feeds = s.feeds := rfl
@[simp] theorem State.latchSource_monitorIn (s : State) (k : SlotIx) : (s.latchSource k).monitorIn = s.monitorIn := rfl
@[simp] theorem State.latchSource_bEff (s : State) (k : SlotIx) : (s.latchSource k).bEff = s.bEff := rfl
@[simp] theorem State.latchSource_out (s : State) (k : SlotIx) : (s.latchSource k).out = s.out := rfl
@[simp] theorem State.latchSource_store (s : State) (k : SlotIx) : (s.latchSource k).store = s.store := rfl
@[simp] theorem State.latchSource_protHi (s : State) (k : SlotIx) : (s.latchSource k).protHi = s.protHi := rfl
@[simp] theorem State.latchSource_protLo (s : State) (k : SlotIx) : (s.latchSource k).protLo = s.protLo := rfl
@[simp] theorem State.latchSource_resetHeld (s : State) (k : SlotIx) : (s.latchSource k).resetHeld = s.resetHeld := rfl
@[simp] theorem State.latchSource_now (s : State) (k : SlotIx) : (s.latchSource k).now = s.now := rfl
@[simp] theorem State.latchSource_fresh (s : State) (k : SlotIx) : (s.latchSource k).fresh = s.fresh := rfl
@[simp] theorem State.slot_latchSource (s : State) (k : SlotIx) (i : SlotIx) : (s.latchSource k).slot i = s.slot i := rfl
@[simp] theorem State.receiver_latchSource (s : State) (k : SlotIx) (i : Feed) : (s.latchSource k).receiver i = s.receiver i := by cases i <;> rfl

/-! ### placeOutcome -/

@[simp] theorem State.placeOutcome_pending (s : State) (p : Port) (r : OutcomeRecord) : (s.placeOutcome p r).pending = s.pending := rfl
@[simp] theorem State.placeOutcome_wide (s : State) (p : Port) (r : OutcomeRecord) : (s.placeOutcome p r).wide = s.wide := rfl
@[simp] theorem State.placeOutcome_generation (s : State) (p : Port) (r : OutcomeRecord) : (s.placeOutcome p r).generation = s.generation := rfl
@[simp] theorem State.placeOutcome_slots (s : State) (p : Port) (r : OutcomeRecord) : (s.placeOutcome p r).slots = s.slots := rfl
@[simp] theorem State.placeOutcome_changes (s : State) (p : Port) (r : OutcomeRecord) : (s.placeOutcome p r).changes = s.changes := rfl
@[simp] theorem State.placeOutcome_engine (s : State) (p : Port) (r : OutcomeRecord) : (s.placeOutcome p r).engine = s.engine := rfl
@[simp] theorem State.placeOutcome_feeds (s : State) (p : Port) (r : OutcomeRecord) : (s.placeOutcome p r).feeds = s.feeds := rfl
@[simp] theorem State.placeOutcome_monitorIn (s : State) (p : Port) (r : OutcomeRecord) : (s.placeOutcome p r).monitorIn = s.monitorIn := rfl
@[simp] theorem State.placeOutcome_bEff (s : State) (p : Port) (r : OutcomeRecord) : (s.placeOutcome p r).bEff = s.bEff := rfl
@[simp] theorem State.placeOutcome_out (s : State) (p : Port) (r : OutcomeRecord) : (s.placeOutcome p r).out = s.out := rfl
@[simp] theorem State.placeOutcome_store (s : State) (p : Port) (r : OutcomeRecord) : (s.placeOutcome p r).store = s.store := rfl
@[simp] theorem State.placeOutcome_protHi (s : State) (p : Port) (r : OutcomeRecord) : (s.placeOutcome p r).protHi = s.protHi := rfl
@[simp] theorem State.placeOutcome_protLo (s : State) (p : Port) (r : OutcomeRecord) : (s.placeOutcome p r).protLo = s.protLo := rfl
@[simp] theorem State.placeOutcome_resetHeld (s : State) (p : Port) (r : OutcomeRecord) : (s.placeOutcome p r).resetHeld = s.resetHeld := rfl
@[simp] theorem State.placeOutcome_now (s : State) (p : Port) (r : OutcomeRecord) : (s.placeOutcome p r).now = s.now := rfl
@[simp] theorem State.placeOutcome_fresh (s : State) (p : Port) (r : OutcomeRecord) : (s.placeOutcome p r).fresh = s.fresh := rfl
@[simp] theorem State.slot_placeOutcome (s : State) (p : Port) (r : OutcomeRecord) (i : SlotIx) : (s.placeOutcome p r).slot i = s.slot i := rfl
@[simp] theorem State.receiver_placeOutcome (s : State) (p : Port) (r : OutcomeRecord) (i : Feed) : (s.placeOutcome p r).receiver i = s.receiver i := by cases i <;> rfl

/-! ### releaseUrgent -/

@[simp] theorem State.releaseUrgent_pending (s : State) (p : Port) : (s.releaseUrgent p).pending = s.pending := rfl
@[simp] theorem State.releaseUrgent_wide (s : State) (p : Port) : (s.releaseUrgent p).wide = s.wide := rfl
@[simp] theorem State.releaseUrgent_generation (s : State) (p : Port) : (s.releaseUrgent p).generation = s.generation := rfl
@[simp] theorem State.releaseUrgent_slots (s : State) (p : Port) : (s.releaseUrgent p).slots = s.slots := rfl
@[simp] theorem State.releaseUrgent_changes (s : State) (p : Port) : (s.releaseUrgent p).changes = s.changes := rfl
@[simp] theorem State.releaseUrgent_engine (s : State) (p : Port) : (s.releaseUrgent p).engine = s.engine := rfl
@[simp] theorem State.releaseUrgent_feeds (s : State) (p : Port) : (s.releaseUrgent p).feeds = s.feeds := rfl
@[simp] theorem State.releaseUrgent_monitorIn (s : State) (p : Port) : (s.releaseUrgent p).monitorIn = s.monitorIn := rfl
@[simp] theorem State.releaseUrgent_bEff (s : State) (p : Port) : (s.releaseUrgent p).bEff = s.bEff := rfl
@[simp] theorem State.releaseUrgent_out (s : State) (p : Port) : (s.releaseUrgent p).out = s.out := rfl
@[simp] theorem State.releaseUrgent_store (s : State) (p : Port) : (s.releaseUrgent p).store = s.store := rfl
@[simp] theorem State.releaseUrgent_protHi (s : State) (p : Port) : (s.releaseUrgent p).protHi = s.protHi := rfl
@[simp] theorem State.releaseUrgent_protLo (s : State) (p : Port) : (s.releaseUrgent p).protLo = s.protLo := rfl
@[simp] theorem State.releaseUrgent_resetHeld (s : State) (p : Port) : (s.releaseUrgent p).resetHeld = s.resetHeld := rfl
@[simp] theorem State.releaseUrgent_now (s : State) (p : Port) : (s.releaseUrgent p).now = s.now := rfl
@[simp] theorem State.releaseUrgent_fresh (s : State) (p : Port) : (s.releaseUrgent p).fresh = s.fresh := rfl
@[simp] theorem State.slot_releaseUrgent (s : State) (p : Port) (i : SlotIx) : (s.releaseUrgent p).slot i = s.slot i := rfl
@[simp] theorem State.receiver_releaseUrgent (s : State) (p : Port) (i : Feed) : (s.releaseUrgent p).receiver i = s.receiver i := by cases i <;> rfl

/-! ### commit -/

@[simp] theorem State.commit_pending (s : State) (e : Entry) : (s.commit e).pending = s.pending := rfl
@[simp] theorem State.commit_wide (s : State) (e : Entry) : (s.commit e).wide = s.wide := rfl
@[simp] theorem State.commit_slots (s : State) (e : Entry) : (s.commit e).slots = s.slots := rfl
@[simp] theorem State.commit_changes (s : State) (e : Entry) : (s.commit e).changes = s.changes := rfl
@[simp] theorem State.commit_engine (s : State) (e : Entry) : (s.commit e).engine = s.engine := rfl
@[simp] theorem State.commit_feeds (s : State) (e : Entry) : (s.commit e).feeds = s.feeds := rfl
@[simp] theorem State.commit_monitorIn (s : State) (e : Entry) : (s.commit e).monitorIn = s.monitorIn := rfl
@[simp] theorem State.commit_bEff (s : State) (e : Entry) : (s.commit e).bEff = s.bEff := rfl
@[simp] theorem State.commit_out (s : State) (e : Entry) : (s.commit e).out = s.out := rfl
@[simp] theorem State.commit_store (s : State) (e : Entry) : (s.commit e).store = s.store := rfl
@[simp] theorem State.commit_protHi (s : State) (e : Entry) : (s.commit e).protHi = s.protHi := rfl
@[simp] theorem State.commit_protLo (s : State) (e : Entry) : (s.commit e).protLo = s.protLo := rfl
@[simp] theorem State.commit_resetHeld (s : State) (e : Entry) : (s.commit e).resetHeld = s.resetHeld := rfl
@[simp] theorem State.commit_now (s : State) (e : Entry) : (s.commit e).now = s.now := rfl
@[simp] theorem State.commit_fresh (s : State) (e : Entry) : (s.commit e).fresh = s.fresh := rfl
@[simp] theorem State.slot_commit (s : State) (e : Entry) (i : SlotIx) : (s.commit e).slot i = s.slot i := rfl
@[simp] theorem State.receiver_commit (s : State) (e : Entry) (i : Feed) : (s.commit e).receiver i = s.receiver i := by cases i <;> rfl

/-! ### refuseChange -/

@[simp] theorem State.refuseChange_pending (s : State) (e : Entry) (c : OutcomeCode) : (s.refuseChange e c).pending = s.pending := rfl
@[simp] theorem State.refuseChange_wide (s : State) (e : Entry) (c : OutcomeCode) : (s.refuseChange e c).wide = s.wide := rfl
@[simp] theorem State.refuseChange_generation (s : State) (e : Entry) (c : OutcomeCode) : (s.refuseChange e c).generation = s.generation := rfl
@[simp] theorem State.refuseChange_slots (s : State) (e : Entry) (c : OutcomeCode) : (s.refuseChange e c).slots = s.slots := rfl
@[simp] theorem State.refuseChange_changes (s : State) (e : Entry) (c : OutcomeCode) : (s.refuseChange e c).changes = s.changes := rfl
@[simp] theorem State.refuseChange_engine (s : State) (e : Entry) (c : OutcomeCode) : (s.refuseChange e c).engine = s.engine := rfl
@[simp] theorem State.refuseChange_feeds (s : State) (e : Entry) (c : OutcomeCode) : (s.refuseChange e c).feeds = s.feeds := rfl
@[simp] theorem State.refuseChange_monitorIn (s : State) (e : Entry) (c : OutcomeCode) : (s.refuseChange e c).monitorIn = s.monitorIn := rfl
@[simp] theorem State.refuseChange_bEff (s : State) (e : Entry) (c : OutcomeCode) : (s.refuseChange e c).bEff = s.bEff := rfl
@[simp] theorem State.refuseChange_out (s : State) (e : Entry) (c : OutcomeCode) : (s.refuseChange e c).out = s.out := rfl
@[simp] theorem State.refuseChange_store (s : State) (e : Entry) (c : OutcomeCode) : (s.refuseChange e c).store = s.store := rfl
@[simp] theorem State.refuseChange_protHi (s : State) (e : Entry) (c : OutcomeCode) : (s.refuseChange e c).protHi = s.protHi := rfl
@[simp] theorem State.refuseChange_protLo (s : State) (e : Entry) (c : OutcomeCode) : (s.refuseChange e c).protLo = s.protLo := rfl
@[simp] theorem State.refuseChange_resetHeld (s : State) (e : Entry) (c : OutcomeCode) : (s.refuseChange e c).resetHeld = s.resetHeld := rfl
@[simp] theorem State.refuseChange_now (s : State) (e : Entry) (c : OutcomeCode) : (s.refuseChange e c).now = s.now := rfl
@[simp] theorem State.refuseChange_fresh (s : State) (e : Entry) (c : OutcomeCode) : (s.refuseChange e c).fresh = s.fresh := rfl
@[simp] theorem State.slot_refuseChange (s : State) (e : Entry) (c : OutcomeCode) (i : SlotIx) : (s.refuseChange e c).slot i = s.slot i := rfl
@[simp] theorem State.receiver_refuseChange (s : State) (e : Entry) (c : OutcomeCode) (i : Feed) : (s.refuseChange e c).receiver i = s.receiver i := by cases i <;> rfl

/-! ### setLines -/

@[simp] theorem State.setLines_pending (s : State) (hi lo : Bool) : (s.setLines hi lo).pending = s.pending := rfl
@[simp] theorem State.setLines_wide (s : State) (hi lo : Bool) : (s.setLines hi lo).wide = s.wide := rfl
@[simp] theorem State.setLines_generation (s : State) (hi lo : Bool) : (s.setLines hi lo).generation = s.generation := rfl
@[simp] theorem State.setLines_slots (s : State) (hi lo : Bool) : (s.setLines hi lo).slots = s.slots := rfl
@[simp] theorem State.setLines_changes (s : State) (hi lo : Bool) : (s.setLines hi lo).changes = s.changes := rfl
@[simp] theorem State.setLines_engine (s : State) (hi lo : Bool) : (s.setLines hi lo).engine = s.engine := rfl
@[simp] theorem State.setLines_feeds (s : State) (hi lo : Bool) : (s.setLines hi lo).feeds = s.feeds := rfl
@[simp] theorem State.setLines_monitorIn (s : State) (hi lo : Bool) : (s.setLines hi lo).monitorIn = s.monitorIn := rfl
@[simp] theorem State.setLines_bEff (s : State) (hi lo : Bool) : (s.setLines hi lo).bEff = s.bEff := rfl
@[simp] theorem State.setLines_out (s : State) (hi lo : Bool) : (s.setLines hi lo).out = s.out := rfl
@[simp] theorem State.setLines_store (s : State) (hi lo : Bool) : (s.setLines hi lo).store = s.store := rfl
@[simp] theorem State.setLines_ports (s : State) (hi lo : Bool) : (s.setLines hi lo).ports = s.ports := rfl
@[simp] theorem State.setLines_resetHeld (s : State) (hi lo : Bool) : (s.setLines hi lo).resetHeld = s.resetHeld := rfl
@[simp] theorem State.setLines_now (s : State) (hi lo : Bool) : (s.setLines hi lo).now = s.now := rfl
@[simp] theorem State.setLines_fresh (s : State) (hi lo : Bool) : (s.setLines hi lo).fresh = s.fresh := rfl
@[simp] theorem State.slot_setLines (s : State) (hi lo : Bool) (i : SlotIx) : (s.setLines hi lo).slot i = s.slot i := rfl
@[simp] theorem State.port_setLines (s : State) (hi lo : Bool) (i : Port) : (s.setLines hi lo).port i = s.port i := rfl
@[simp] theorem State.receiver_setLines (s : State) (hi lo : Bool) (i : Feed) : (s.setLines hi lo).receiver i = s.receiver i := by cases i <;> rfl

/-! ### served -/

@[simp] theorem State.served_pending (s : State) (p : Port) : (s.served p).pending = s.pending := rfl
@[simp] theorem State.served_wide (s : State) (p : Port) : (s.served p).wide = s.wide := rfl
@[simp] theorem State.served_generation (s : State) (p : Port) : (s.served p).generation = s.generation := rfl
@[simp] theorem State.served_slots (s : State) (p : Port) : (s.served p).slots = s.slots := rfl
@[simp] theorem State.served_engine (s : State) (p : Port) : (s.served p).engine = s.engine := rfl
@[simp] theorem State.served_feeds (s : State) (p : Port) : (s.served p).feeds = s.feeds := rfl
@[simp] theorem State.served_monitorIn (s : State) (p : Port) : (s.served p).monitorIn = s.monitorIn := rfl
@[simp] theorem State.served_bEff (s : State) (p : Port) : (s.served p).bEff = s.bEff := rfl
@[simp] theorem State.served_out (s : State) (p : Port) : (s.served p).out = s.out := rfl
@[simp] theorem State.served_store (s : State) (p : Port) : (s.served p).store = s.store := rfl
@[simp] theorem State.served_ports (s : State) (p : Port) : (s.served p).ports = s.ports := rfl
@[simp] theorem State.served_protHi (s : State) (p : Port) : (s.served p).protHi = s.protHi := rfl
@[simp] theorem State.served_protLo (s : State) (p : Port) : (s.served p).protLo = s.protLo := rfl
@[simp] theorem State.served_resetHeld (s : State) (p : Port) : (s.served p).resetHeld = s.resetHeld := rfl
@[simp] theorem State.served_now (s : State) (p : Port) : (s.served p).now = s.now := rfl
@[simp] theorem State.served_fresh (s : State) (p : Port) : (s.served p).fresh = s.fresh := rfl
@[simp] theorem State.slot_served (s : State) (p : Port) (i : SlotIx) : (s.served p).slot i = s.slot i := rfl
@[simp] theorem State.port_served (s : State) (p : Port) (i : Port) : (s.served p).port i = s.port i := rfl
@[simp] theorem State.receiver_served (s : State) (p : Port) (i : Feed) : (s.served p).receiver i = s.receiver i := by cases i <;> rfl

/-! ### accept -/

@[simp] theorem State.accept_pending (s : State) (p : Port) (m : Submitted) : (s.accept p m).pending = s.pending := rfl
@[simp] theorem State.accept_wide (s : State) (p : Port) (m : Submitted) : (s.accept p m).wide = s.wide := rfl
@[simp] theorem State.accept_generation (s : State) (p : Port) (m : Submitted) : (s.accept p m).generation = s.generation := rfl
@[simp] theorem State.accept_slots (s : State) (p : Port) (m : Submitted) : (s.accept p m).slots = s.slots := rfl
@[simp] theorem State.accept_engine (s : State) (p : Port) (m : Submitted) : (s.accept p m).engine = s.engine := rfl
@[simp] theorem State.accept_feeds (s : State) (p : Port) (m : Submitted) : (s.accept p m).feeds = s.feeds := rfl
@[simp] theorem State.accept_monitorIn (s : State) (p : Port) (m : Submitted) : (s.accept p m).monitorIn = s.monitorIn := rfl
@[simp] theorem State.accept_bEff (s : State) (p : Port) (m : Submitted) : (s.accept p m).bEff = s.bEff := rfl
@[simp] theorem State.accept_out (s : State) (p : Port) (m : Submitted) : (s.accept p m).out = s.out := rfl
@[simp] theorem State.accept_store (s : State) (p : Port) (m : Submitted) : (s.accept p m).store = s.store := rfl
@[simp] theorem State.accept_ports (s : State) (p : Port) (m : Submitted) : (s.accept p m).ports = s.ports := rfl
@[simp] theorem State.accept_protHi (s : State) (p : Port) (m : Submitted) : (s.accept p m).protHi = s.protHi := rfl
@[simp] theorem State.accept_protLo (s : State) (p : Port) (m : Submitted) : (s.accept p m).protLo = s.protLo := rfl
@[simp] theorem State.accept_resetHeld (s : State) (p : Port) (m : Submitted) : (s.accept p m).resetHeld = s.resetHeld := rfl
@[simp] theorem State.accept_now (s : State) (p : Port) (m : Submitted) : (s.accept p m).now = s.now := rfl
@[simp] theorem State.accept_fresh (s : State) (p : Port) (m : Submitted) : (s.accept p m).fresh = s.fresh := rfl
@[simp] theorem State.slot_accept (s : State) (p : Port) (m : Submitted) (i : SlotIx) : (s.accept p m).slot i = s.slot i := rfl
@[simp] theorem State.port_accept (s : State) (p : Port) (m : Submitted) (i : Port) : (s.accept p m).port i = s.port i := rfl
@[simp] theorem State.receiver_accept (s : State) (p : Port) (m : Submitted) (i : Feed) : (s.accept p m).receiver i = s.receiver i := by cases i <;> rfl

/-! ### putReceiver -/

@[simp] theorem State.putReceiver_pending (s : State) (f : Feed) (r : Receiver) : (s.putReceiver f r).pending = s.pending := by cases f <;> rfl
@[simp] theorem State.putReceiver_wide (s : State) (f : Feed) (r : Receiver) : (s.putReceiver f r).wide = s.wide := by cases f <;> rfl
@[simp] theorem State.putReceiver_generation (s : State) (f : Feed) (r : Receiver) : (s.putReceiver f r).generation = s.generation := by cases f <;> rfl
@[simp] theorem State.putReceiver_slots (s : State) (f : Feed) (r : Receiver) : (s.putReceiver f r).slots = s.slots := by cases f <;> rfl
@[simp] theorem State.putReceiver_changes (s : State) (f : Feed) (r : Receiver) : (s.putReceiver f r).changes = s.changes := by cases f <;> rfl
@[simp] theorem State.putReceiver_engine (s : State) (f : Feed) (r : Receiver) : (s.putReceiver f r).engine = s.engine := by cases f <;> rfl
@[simp] theorem State.putReceiver_monitorIn (s : State) (f : Feed) (r : Receiver) : (s.putReceiver f r).monitorIn = s.monitorIn := by cases f <;> rfl
@[simp] theorem State.putReceiver_bEff (s : State) (f : Feed) (r : Receiver) : (s.putReceiver f r).bEff = s.bEff := by cases f <;> rfl
@[simp] theorem State.putReceiver_out (s : State) (f : Feed) (r : Receiver) : (s.putReceiver f r).out = s.out := by cases f <;> rfl
@[simp] theorem State.putReceiver_store (s : State) (f : Feed) (r : Receiver) : (s.putReceiver f r).store = s.store := by cases f <;> rfl
@[simp] theorem State.putReceiver_ports (s : State) (f : Feed) (r : Receiver) : (s.putReceiver f r).ports = s.ports := by cases f <;> rfl
@[simp] theorem State.putReceiver_protHi (s : State) (f : Feed) (r : Receiver) : (s.putReceiver f r).protHi = s.protHi := by cases f <;> rfl
@[simp] theorem State.putReceiver_protLo (s : State) (f : Feed) (r : Receiver) : (s.putReceiver f r).protLo = s.protLo := by cases f <;> rfl
@[simp] theorem State.putReceiver_resetHeld (s : State) (f : Feed) (r : Receiver) : (s.putReceiver f r).resetHeld = s.resetHeld := by cases f <;> rfl
@[simp] theorem State.putReceiver_now (s : State) (f : Feed) (r : Receiver) : (s.putReceiver f r).now = s.now := by cases f <;> rfl
@[simp] theorem State.putReceiver_fresh (s : State) (f : Feed) (r : Receiver) : (s.putReceiver f r).fresh = s.fresh := by cases f <;> rfl
@[simp] theorem State.slot_putReceiver (s : State) (f : Feed) (r : Receiver) (i : SlotIx) : (s.putReceiver f r).slot i = s.slot i := by cases f <;> rfl
@[simp] theorem State.port_putReceiver (s : State) (f : Feed) (r : Receiver) (i : Port) : (s.putReceiver f r).port i = s.port i := by cases f <;> rfl

end Sys2Proof.Machine
end

