-- ==== Sys2Proof/Laws/Slots.lean ====
section
/-! SUPPORT. What the Ramp Controller's and the Level Governor's operations do to each slot, and when the values that they form
agree in two states. -/

namespace Sys2Proof.Machine

/-! ## Reading a state that is written out -/

@[simp] theorem State.slots_getElem (s : State) (k : SlotIx) : s.slots[k.val] = s.slot k := rfl

@[simp] theorem State.ports_at (s : State) (p : Port) : s.ports.at p = s.port p := rfl

@[simp] theorem State.slot_mk {a b c v d e f g h i j k l m n o q} (x : SlotIx) :
    (State.mk a b c v d e f g h i j k l m n o q).slot x = v[x.val] := rfl

@[simp] theorem State.port_mk {a b c v d e f g h i j k l m n o q} (p : Port) :
    (State.mk a b c v d e f g h i j k l m n o q).port p = k.at p := rfl

theorem State.receiver_congr {s t : State} (h : t.feeds = s.feeds) (f : Feed) : t.receiver f = s.receiver f := by
  cases f <;> simp only [State.receiver, h]

/-! ## All slots and some slot -/

theorem mem_slotIndices (k : SlotIx) : k ∈ slotIndices := by revert k; decide

theorem State.everySlot_iff (s : State) (q : Slot → Bool) : s.everySlot q = true ↔ ∀ k, q (s.slot k) = true := by
  simp only [State.everySlot, List.all_eq_true]
  exact ⟨fun h k => h k (mem_slotIndices k), fun h k _ => h k⟩

theorem State.someSlot_iff (s : State) (q : Slot → Bool) : s.someSlot q = true ↔ ∃ k, q (s.slot k) = true := by
  simp only [State.someSlot, List.any_eq_true]
  exact ⟨fun ⟨k, _, h⟩ => ⟨k, h⟩, fun ⟨k, h⟩ => ⟨k, mem_slotIndices k, h⟩⟩

theorem State.someSlot_eq_false (s : State) (q : Slot → Bool) : s.someSlot q = false ↔ ∀ k, q (s.slot k) = false := by
  rw [← Bool.not_eq_true, State.someSlot_iff]; simp

theorem State.allOff_iff (s : State) : s.allOff = true ↔ ∀ k, (s.slot k).ramp.state = .off := by
  simp [State.allOff, State.everySlot_iff, Slot.transmitting]

theorem State.slotValues_congr {α : Type} {s t : State} {f : Slot → α} (h : ∀ k, f (t.slot k) = f (s.slot k)) :
    t.slotValues f = s.slotValues f := by
  simp only [State.slotValues]
  exact List.map_congr_left fun k _ => h k

theorem State.demand_congr {s t : State} (h : ∀ k, (t.slot k).request = (s.slot k).request) : t.demand = s.demand := by
  simp only [State.demand, State.slotValues_congr h]

theorem Slot.transmitting_congr {x y : Slot} (h : y.ramp.state = x.ramp.state) : y.transmitting = x.transmitting := by
  simp only [Slot.transmitting, h]

theorem Slot.request_congr {x y : Slot} (h : y.ramp.state = x.ramp.state) (hp : y.record.power = x.record.power) :
    y.request = x.request := by
  simp only [Slot.request, Slot.transmitting_congr h, hp]

theorem Slot.wanted_congr {x y : Slot} (hr : y.record = x.record) (hm : y.retuning = x.retuning)
    (hs : y.sel.source = x.sel.source) : y.wanted = x.wanted := by
  simp only [Slot.wanted, Slot.hasSource, hr, hm, hs]

theorem State.airOpen_congr {s t : State} (h : t.out.state = s.out.state) (hh : t.out.hold = s.out.hold) :
    t.airOpen = s.airOpen := by
  simp only [State.airOpen, State.holdEmpty, h, hh]

theorem State.onDemand_congr {s t : State} {k : SlotIx} (ha : t.airOpen = s.airOpen) (hw : (t.slot k).wanted = (s.slot k).wanted) :
    t.onDemand k = s.onDemand k := by
  simp only [State.onDemand, ha, hw]

theorem Slot.wanted_iff (x : Slot) : x.wanted = true ↔ x.Wants := by
  simp [Slot.wanted, Slot.Wants, Slot.hasSource, and_assoc]

theorem State.airOpen_iff (s : State) : s.airOpen = true ↔ s.out.state = .onAir ∧ s.holdEmpty = true := by
  simp [State.airOpen]

theorem State.onDemand_iff (s : State) (k : SlotIx) :
    s.onDemand k = true ↔ s.out.state = .onAir ∧ s.holdEmpty = true ∧ (s.slot k).Wants := by
  simp [State.onDemand, State.airOpen_iff, Slot.wanted_iff, and_assoc]

/-! ## The move of one ramp -/

/-- A ramp whose on-demand condition is false turns down (R91). -/
theorem Ramp.react_false (rs : Nat) (r : Ramp) : TurnedDown rs r (r.react false rs) := by
  obtain ⟨st, n, t⟩ := r
  cases st <;> simp +contextual [TurnedDown, Ramp.react, Ramp.rest]

/-- A ramp whose on-demand condition is true turns up (R90). -/
theorem Ramp.react_true (rs : Nat) (r : Ramp) : TurnedUp rs r (r.react true rs) := by
  obtain ⟨st, n, t⟩ := r
  cases st <;> simp +contextual [TurnedUp, Ramp.react, Nat.not_lt.mpr]

/-- After its D is formed a ramp is on its way up or ON exactly where D holds. -/
theorem Ramp.react_up_iff (d : Bool) (rs : Nat) (r : Ramp) :
    ((r.react d rs).state = .rampUp ∨ (r.react d rs).state = .on) ↔ d = true := by
  obtain ⟨st, n, t⟩ := r
  cases d <;> cases st <;> simp only [Ramp.react] <;> (try split) <;> simp [Ramp.rest]

theorem Ramp.react_lawful (d : Bool) {rs : Nat} {r : Ramp} (h : r.Lawful) : (r.react d rs).Lawful := by
  obtain ⟨st, n, t⟩ := r
  cases d <;> cases st <;> simp only [Ramp.react] <;> (try split) <;> simp_all [Ramp.rest, Ramp.Lawful] <;> omega

/-- Forming D again from the same value moves nothing. -/
theorem Ramp.react_of_up_iff {d : Bool} {rs : Nat} {r : Ramp} (h : (r.state = .rampUp ∨ r.state = .on) ↔ d = true) :
    r.react d rs = r := by
  obtain ⟨st, n, t⟩ := r
  cases d <;> cases st <;> simp_all [Ramp.react]

/-- An OFF ramp leaves OFF only where D holds. -/
theorem Ramp.react_off {d : Bool} {rs : Nat} {r : Ramp} (h : r.state = .off) :
    r.react d rs = if d then ⟨.rampUp, 0, some rs⟩ else r := by
  obtain ⟨st, n, t⟩ := r
  simp only at h; subst h
  cases d <;> rfl

theorem Ramp.advance_lawful {rs : Nat} {r : Ramp} (h : r.Lawful) : (r.advance rs).Lawful := by
  obtain ⟨st, n, t⟩ := r
  cases st <;> simp only [Ramp.advance] <;> (try split) <;> simp_all [Ramp.rest, Ramp.Lawful] <;> omega

/-! ## Each slot after each operation -/

/-- An evaluation forms the grant and the share of every slot, and moves nothing else of it (R104, R111). -/
theorem State.slot_govern (s : State) (k : SlotIx) :
    s.govern.slot k =
      { s.slot k with
        grant := grantOf s.bEff s.demand (s.slot k)
        share := shareOf (grantOf s.bEff s.demand (s.slot k)) (s.slot k).ramp.step } := by
  simp only [State.govern, State.slot_mapSlots, Slot.formShare]

theorem State.slot_reactAll (s : State) (k : SlotIx) :
    s.reactAll.slot k = { s.slot k with ramp := (s.slot k).ramp.react (s.onDemand k) s.wide.rampStep } := by
  simp only [State.reactAll, State.slot_mapSlots]

theorem State.slot_reactSlot (s : State) (j k : SlotIx) :
    (s.reactSlot k).slot j =
      if j = k then { s.slot k with ramp := (s.slot k).ramp.react (s.onDemand k) s.wide.rampStep } else s.slot j := by
  simp only [State.reactSlot, State.slot_modSlot]

@[simp] theorem State.govern_slot_record (s : State) (j : SlotIx) : (s.govern.slot j).record = (s.slot j).record := by simp only [State.slot_govern]
@[simp] theorem State.govern_slot_words (s : State) (j : SlotIx) : (s.govern.slot j).words = (s.slot j).words := by simp only [State.slot_govern]
@[simp] theorem State.govern_slot_primary (s : State) (j : SlotIx) : (s.govern.slot j).primary = (s.slot j).primary := by simp only [State.slot_govern]
@[simp] theorem State.govern_slot_fallback (s : State) (j : SlotIx) : (s.govern.slot j).fallback = (s.slot j).fallback := by simp only [State.slot_govern]
@[simp] theorem State.govern_slot_sel (s : State) (j : SlotIx) : (s.govern.slot j).sel = (s.slot j).sel := by simp only [State.slot_govern]
@[simp] theorem State.govern_slot_retuning (s : State) (j : SlotIx) : (s.govern.slot j).retuning = (s.slot j).retuning := by simp only [State.slot_govern]
@[simp] theorem State.govern_slot_ramp (s : State) (j : SlotIx) : (s.govern.slot j).ramp = (s.slot j).ramp := by simp only [State.slot_govern]

@[simp] theorem State.reactAll_slot_record (s : State) (j : SlotIx) : (s.reactAll.slot j).record = (s.slot j).record := by simp only [State.slot_reactAll]
@[simp] theorem State.reactAll_slot_words (s : State) (j : SlotIx) : (s.reactAll.slot j).words = (s.slot j).words := by simp only [State.slot_reactAll]
@[simp] theorem State.reactAll_slot_primary (s : State) (j : SlotIx) : (s.reactAll.slot j).primary = (s.slot j).primary := by simp only [State.slot_reactAll]
@[simp] theorem State.reactAll_slot_fallback (s : State) (j : SlotIx) : (s.reactAll.slot j).fallback = (s.slot j).fallback := by simp only [State.slot_reactAll]
@[simp] theorem State.reactAll_slot_sel (s : State) (j : SlotIx) : (s.reactAll.slot j).sel = (s.slot j).sel := by simp only [State.slot_reactAll]
@[simp] theorem State.reactAll_slot_retuning (s : State) (j : SlotIx) : (s.reactAll.slot j).retuning = (s.slot j).retuning := by simp only [State.slot_reactAll]

@[simp] theorem State.reformAll_slot_record (s : State) (j : SlotIx) : (s.reformAll.slot j).record = (s.slot j).record := by simp only [State.reformAll, State.govern_slot_record, State.reactAll_slot_record]
@[simp] theorem State.reformAll_slot_words (s : State) (j : SlotIx) : (s.reformAll.slot j).words = (s.slot j).words := by simp only [State.reformAll, State.govern_slot_words, State.reactAll_slot_words]
@[simp] theorem State.reformAll_slot_primary (s : State) (j : SlotIx) : (s.reformAll.slot j).primary = (s.slot j).primary := by simp only [State.reformAll, State.govern_slot_primary, State.reactAll_slot_primary]
@[simp] theorem State.reformAll_slot_fallback (s : State) (j : SlotIx) : (s.reformAll.slot j).fallback = (s.slot j).fallback := by simp only [State.reformAll, State.govern_slot_fallback, State.reactAll_slot_fallback]
@[simp] theorem State.reformAll_slot_sel (s : State) (j : SlotIx) : (s.reformAll.slot j).sel = (s.slot j).sel := by simp only [State.reformAll, State.govern_slot_sel, State.reactAll_slot_sel]
@[simp] theorem State.reformAll_slot_retuning (s : State) (j : SlotIx) : (s.reformAll.slot j).retuning = (s.slot j).retuning := by simp only [State.reformAll, State.govern_slot_retuning, State.reactAll_slot_retuning]

@[simp] theorem State.forceOff_slot_record (s : State) (j : SlotIx) : (s.forceOff.slot j).record = (s.slot j).record := by
  simp only [State.forceOff, State.govern_slot_record, State.slot_mapSlots]; split <;> rfl
@[simp] theorem State.forceOff_slot_words (s : State) (j : SlotIx) : (s.forceOff.slot j).words = (s.slot j).words := by
  simp only [State.forceOff, State.govern_slot_words, State.slot_mapSlots]; split <;> rfl
@[simp] theorem State.forceOff_slot_primary (s : State) (j : SlotIx) : (s.forceOff.slot j).primary = (s.slot j).primary := by
  simp only [State.forceOff, State.govern_slot_primary, State.slot_mapSlots]; split <;> rfl
@[simp] theorem State.forceOff_slot_fallback (s : State) (j : SlotIx) : (s.forceOff.slot j).fallback = (s.slot j).fallback := by
  simp only [State.forceOff, State.govern_slot_fallback, State.slot_mapSlots]; split <;> rfl
@[simp] theorem State.forceOff_slot_sel (s : State) (j : SlotIx) : (s.forceOff.slot j).sel = (s.slot j).sel := by
  simp only [State.forceOff, State.govern_slot_sel, State.slot_mapSlots]; split <;> rfl
@[simp] theorem State.forceOff_slot_retuning (s : State) (j : SlotIx) : (s.forceOff.slot j).retuning = (s.slot j).retuning := by
  simp only [State.forceOff, State.govern_slot_retuning, State.slot_mapSlots]; split <;> rfl

@[simp] theorem State.reactSlot_slot_record (s : State) (k : SlotIx) (j : SlotIx) : ((s.reactSlot k).slot j).record = (s.slot j).record := by
  simp only [State.slot_reactSlot]; split <;> simp_all
@[simp] theorem State.reactSlot_slot_words (s : State) (k : SlotIx) (j : SlotIx) : ((s.reactSlot k).slot j).words = (s.slot j).words := by
  simp only [State.slot_reactSlot]; split <;> simp_all
@[simp] theorem State.reactSlot_slot_primary (s : State) (k : SlotIx) (j : SlotIx) : ((s.reactSlot k).slot j).primary = (s.slot j).primary := by
  simp only [State.slot_reactSlot]; split <;> simp_all
@[simp] theorem State.reactSlot_slot_fallback (s : State) (k : SlotIx) (j : SlotIx) : ((s.reactSlot k).slot j).fallback = (s.slot j).fallback := by
  simp only [State.slot_reactSlot]; split <;> simp_all
@[simp] theorem State.reactSlot_slot_sel (s : State) (k : SlotIx) (j : SlotIx) : ((s.reactSlot k).slot j).sel = (s.slot j).sel := by
  simp only [State.slot_reactSlot]; split <;> simp_all
@[simp] theorem State.reactSlot_slot_retuning (s : State) (k : SlotIx) (j : SlotIx) : ((s.reactSlot k).slot j).retuning = (s.slot j).retuning := by
  simp only [State.slot_reactSlot]; split <;> simp_all

@[simp] theorem State.reformSlot_slot_record (s : State) (k : SlotIx) (j : SlotIx) : ((s.reformSlot k).slot j).record = (s.slot j).record := by simp only [State.reformSlot, State.govern_slot_record, State.reactSlot_slot_record]
@[simp] theorem State.reformSlot_slot_words (s : State) (k : SlotIx) (j : SlotIx) : ((s.reformSlot k).slot j).words = (s.slot j).words := by simp only [State.reformSlot, State.govern_slot_words, State.reactSlot_slot_words]
@[simp] theorem State.reformSlot_slot_primary (s : State) (k : SlotIx) (j : SlotIx) : ((s.reformSlot k).slot j).primary = (s.slot j).primary := by simp only [State.reformSlot, State.govern_slot_primary, State.reactSlot_slot_primary]
@[simp] theorem State.reformSlot_slot_fallback (s : State) (k : SlotIx) (j : SlotIx) : ((s.reformSlot k).slot j).fallback = (s.slot j).fallback := by simp only [State.reformSlot, State.govern_slot_fallback, State.reactSlot_slot_fallback]
@[simp] theorem State.reformSlot_slot_sel (s : State) (k : SlotIx) (j : SlotIx) : ((s.reformSlot k).slot j).sel = (s.slot j).sel := by simp only [State.reformSlot, State.govern_slot_sel, State.reactSlot_slot_sel]
@[simp] theorem State.reformSlot_slot_retuning (s : State) (k : SlotIx) (j : SlotIx) : ((s.reformSlot k).slot j).retuning = (s.slot j).retuning := by simp only [State.reformSlot, State.govern_slot_retuning, State.reactSlot_slot_retuning]

@[simp] theorem State.reactAll_slot_ramp (s : State) (j : SlotIx) :
    (s.reactAll.slot j).ramp = (s.slot j).ramp.react (s.onDemand j) s.wide.rampStep := by simp only [State.slot_reactAll]

@[simp] theorem State.reformAll_slot_ramp (s : State) (j : SlotIx) :
    (s.reformAll.slot j).ramp = (s.slot j).ramp.react (s.onDemand j) s.wide.rampStep := by
  simp only [State.reformAll, State.govern_slot_ramp, State.reactAll_slot_ramp]

theorem State.reactSlot_slot_ramp (s : State) (j k : SlotIx) :
    ((s.reactSlot k).slot j).ramp =
      if j = k then (s.slot k).ramp.react (s.onDemand k) s.wide.rampStep else (s.slot j).ramp := by
  simp only [State.slot_reactSlot]; split <;> rfl

theorem State.reformSlot_slot_ramp (s : State) (j k : SlotIx) :
    ((s.reformSlot k).slot j).ramp =
      if j = k then (s.slot k).ramp.react (s.onDemand k) s.wide.rampStep else (s.slot j).ramp := by
  simp only [State.reformSlot, State.govern_slot_ramp, State.reactSlot_slot_ramp]

@[simp] theorem State.reformSlot_slot_ramp_self (s : State) (k : SlotIx) :
    ((s.reformSlot k).slot k).ramp = (s.slot k).ramp.react (s.onDemand k) s.wide.rampStep := by
  simp [State.reformSlot_slot_ramp]

theorem State.reformSlot_slot_ramp_of_ne (s : State) {j k : SlotIx} (h : j ≠ k) :
    ((s.reformSlot k).slot j).ramp = (s.slot j).ramp := by
  simp [State.reformSlot_slot_ramp, h]

@[simp] theorem State.forceOff_slot_ramp (s : State) (j : SlotIx) :
    (s.forceOff.slot j).ramp = if (s.slot j).transmitting then .rest else (s.slot j).ramp := by
  simp only [State.forceOff, State.govern_slot_ramp, State.slot_mapSlots]; split <;> rfl

theorem State.forceOff_off (s : State) (j : SlotIx) : (s.forceOff.slot j).ramp.state = .off := by
  rw [State.forceOff_slot_ramp]
  by_cases h : (s.slot j).transmitting = true
  · rw [if_pos h]; rfl
  · rw [if_neg h]; simpa [Slot.transmitting] using h

/-! ## The governor's values -/

/-- An evaluation does not move the demand that it reads. -/
@[simp] theorem State.demand_govern (s : State) : s.govern.demand = s.demand :=
  State.demand_congr fun k => Slot.request_congr (by simp) (by simp)

theorem State.govern_slot_grant (s : State) (k : SlotIx) :
    (s.govern.slot k).grant = grantOf s.bEff s.demand (s.slot k) := by simp only [State.slot_govern]

theorem grantOf_congr {b d : Nat} {x y : Slot} (h : y.ramp.state = x.ramp.state) (hp : y.record.power = x.record.power) :
    grantOf b d y = grantOf b d x := by
  simp only [grantOf, Slot.transmitting_congr h, hp]

theorem grantOf_off {b d : Nat} {x : Slot} (h : x.ramp.state = .off) : grantOf b d x = 0 := by
  simp [grantOf, Slot.transmitting, h]

/-- After an evaluation every grant and share is the one that R104 and R111 form from the state as it stands. -/
theorem State.govern_formed (s : State) (k : SlotIx) :
    (s.govern.slot k).grant = grantOf s.govern.bEff s.govern.demand (s.govern.slot k) ∧
      (s.govern.slot k).share = shareOf (s.govern.slot k).grant (s.govern.slot k).ramp.step := by
  rw [State.demand_govern, State.govern_bEff, State.slot_govern]
  exact ⟨(grantOf_congr rfl rfl).symm, rfl⟩

/-- An evaluation upholds the law of the governor where the effective budget is formed. -/
theorem State.governorLaw_govern {s : State} (h : s.bEff = effectiveBudget s.wide.budget s.out.level) : s.govern.GovernorLaw :=
  ⟨by simpa using h, s.govern_formed⟩

/-- An update that moves no input of the governor and no grant and no share keeps its law. -/
theorem State.GovernorLaw.of_same {s t : State} (h : s.GovernorLaw) (hw : t.wide.budget = s.wide.budget)
    (hl : t.out.level = s.out.level) (hb : t.bEff = s.bEff)
    (hk : ∀ k, (t.slot k).grant = (s.slot k).grant ∧ (t.slot k).share = (s.slot k).share ∧
      (t.slot k).ramp.state = (s.slot k).ramp.state ∧ (t.slot k).ramp.step = (s.slot k).ramp.step ∧
      (t.slot k).record.power = (s.slot k).record.power) : t.GovernorLaw := by
  have hd : t.demand = s.demand := State.demand_congr fun k => Slot.request_congr (hk k).2.2.1 (hk k).2.2.2.2
  refine ⟨by rw [hb, hw, hl]; exact h.1, fun k => ?_⟩
  obtain ⟨g, sh, st, stp, pw⟩ := hk k
  rw [hb, hd, g, sh, stp, grantOf_congr st pw]
  exact h.2 k

end Sys2Proof.Machine
end

