-- ==== Sys2Proof/Laws/Transmitter.lean ====
section
/-! SUPPORT. What the Output Controller's operations can do: the frame that they all keep, the output that each leaves, and the
laws that each keeps. -/

namespace Sys2Proof.Machine

/-! ## Latches -/

theorem Cause.number_pos (c : Cause) : 1 ≤ c.number ∧ c.number ≤ 9 := by cases c <;> decide

theorem Cause.bit_getLsbD (c d : Cause) : c.bit.getLsbD (d.number - 1) = decide (c = d) := by
  cases c <;> cases d <;> decide

/-- Setting a latch sets it and leaves every other (R162). -/
theorem PortState.latched_or (q : PortState) (c d : Cause) :
    PortState.latched { q with latches := q.latches ||| c.bit } d = (q.latched d || decide (c = d)) := by
  simp only [PortState.latched, BitVec.getLsbD_or, Cause.bit_getLsbD]

/-- Latches set within a mask leave every latch outside it. -/
theorem PortState.latched_or_of_le (q : PortState) {l b : BitVec 9} (h : l ||| b = b) {c : Cause}
    (hc : b.getLsbD (c.number - 1) = false) : PortState.latched { q with latches := q.latches ||| l } c = q.latched c := by
  have : l.getLsbD (c.number - 1) = false := by
    have := congrArg (fun x => BitVec.getLsbD x (c.number - 1)) h
    simp only [BitVec.getLsbD_or, hc, Bool.or_false] at this
    exact this
  simp only [PortState.latched, BitVec.getLsbD_or, this, Bool.or_false]

/-- A port after a latch is set on one port. -/
theorem State.port_latch (s : State) (p q : Port) (c : Cause) :
    (s.latch p c).port q = if q = p then { s.port p with latches := (s.port p).latches ||| c.bit } else s.port q :=
  State.port_modPort s p q _

@[simp] theorem State.port_latch_self (s : State) (p : Port) (c : Cause) :
    (s.latch p c).port p = { s.port p with latches := (s.port p).latches ||| c.bit } := State.port_modPort_self s p _

@[simp] theorem State.port_latch_other (s : State) (p : Port) (c : Cause) :
    (s.latch p c).port (otherPort p) = s.port (otherPort p) := State.port_modPort_other s p _

@[simp] theorem State.port_latch_other' (s : State) (p : Port) (c : Cause) :
    (s.latch (otherPort p) c).port p = s.port p := by cases p <;> rfl

@[simp] theorem State.port_latchBoth (s : State) (q : Port) (c : Cause) :
    (s.latchBoth c).port q = { s.port q with latches := (s.port q).latches ||| c.bit } := by cases q <;> rfl

@[simp] theorem State.port_latchSource (s : State) (k : SlotIx) (q : Port) :
    (s.latchSource k).port q =
      { s.port q with latches := (s.port q).latches ||| Cause.source.bit, changed := (s.port q).changed ||| slotBit k } := by
  cases q <;> rfl

/-! ## A change of transmitter state -/

@[simp] theorem State.setTx_out (s : State) (t : TxState) :
    (s.setTx t).out =
      { s.out with
        state := t
        paEn := t.amplifierOn
        warmUp := if t = .warmUp then some (warmUpMs s.wide.warmUpCode) else none
        quiet := if t = .onAir then s.out.quiet else none } := rfl

@[simp] theorem State.port_setTx (s : State) (t : TxState) (q : Port) :
    (s.setTx t).port q = { s.port q with latches := (s.port q).latches ||| Cause.txState.bit } := by cases q <;> rfl

theorem State.latched_setTx (s : State) (t : TxState) (q : Port) : ((s.setTx t).port q).latched .txState = true := by
  rw [State.port_setTx, PortState.latched, BitVec.getLsbD_or]
  exact Bool.or_eq_true_iff.mpr (.inr rfl)

theorem State.ShowsTransmitter.of_same {s t : State} (ho : t.out.state = s.out.state)
    (hp : ∀ p, (t.port p).latches = (s.port p).latches) : s.ShowsTransmitter t :=
  ⟨fun h => absurd ho h, fun _ p => by simp only [PortState.latched, hp]⟩

/-- A change of transmitter state, with whatever follows it that keeps the state and the latch, is shown (R132). -/
theorem State.ShowsTransmitter.of_setTx {s t : State} {x : TxState} (hx : x ≠ s.out.state) (ho : t.out.state = x)
    (hp : ∀ p, ((s.setTx x).port p).latched .txState = true → (t.port p).latched .txState = true) : s.ShowsTransmitter t :=
  ⟨fun _ p => hp p (s.latched_setTx x p), fun h => absurd (ho.symm.trans h) hx⟩

@[simp] theorem State.formQuiet_out (s : State) :
    s.formQuiet.out = { s.out with quiet := if s.quietCondition then some (s.out.quiet.getD 0) else none } := rfl

/-- The quiet condition, term by term (R122). -/
theorem State.quietCondition_iff (s : State) :
    s.quietCondition = true ↔
      s.out.state = .onAir ∧ s.wide.quietTime ≠ 0 ∧ s.holdEmpty = true ∧
        ∀ k, (s.slot k).record.assigned = true → (s.slot k).record.enabled = true → (s.slot k).sel.source = .lost := by
  simp [State.quietCondition, State.someSlot_eq_false, Slot.hasSource, and_assoc]

theorem warmUpTime_ms {code : Nat} : WarmUpTime code (warmUpMs code) := by
  refine ⟨?_, ?_, ?_, ?_, ?_⟩ <;> rintro rfl <;> rfl

/-! ## The frame -/

/-- What the operations of the Output and the Ramp Controller leave alone: every field but the slots' ramps, grants and shares,
the transmitter state with its amplifier and its two timers, and the ports' TX_STATE latches newly set. -/
structure State.AirFrame (s t : State) : Prop where
  pending : t.pending = s.pending
  wide : t.wide = s.wide
  generation : t.generation = s.generation
  changes : t.changes = s.changes
  engine : t.engine = s.engine
  feeds : t.feeds = s.feeds
  monitorIn : t.monitorIn = s.monitorIn
  bEff : t.bEff = s.bEff
  store : t.store = s.store
  protHi : t.protHi = s.protHi
  protLo : t.protLo = s.protLo
  resetHeld : t.resetHeld = s.resetHeld
  now : t.now = s.now
  fresh : t.fresh = s.fresh
  hold : t.out.hold = s.out.hold
  trips : t.out.trips = s.out.trips
  level : t.out.level = s.out.level
  record : ∀ k, (t.slot k).record = (s.slot k).record
  words : ∀ k, (t.slot k).words = (s.slot k).words
  primary : ∀ k, (t.slot k).primary = (s.slot k).primary
  fallback : ∀ k, (t.slot k).fallback = (s.slot k).fallback
  sel : ∀ k, (t.slot k).sel = (s.slot k).sel
  retuning : ∀ k, (t.slot k).retuning = (s.slot k).retuning
  port : ∀ p, ∃ l, l ||| Cause.txState.bit = Cause.txState.bit ∧ t.port p = { s.port p with latches := (s.port p).latches ||| l }

namespace State.AirFrame

theorem refl (s : State) : s.AirFrame s := by
  constructor <;> first | rfl | (intro k; rfl) | exact fun p => ⟨0, by simp, by simp⟩

theorem trans {s t u : State} (h : s.AirFrame t) (g : t.AirFrame u) : s.AirFrame u := by
  constructor
  case port =>
    intro p
    obtain ⟨l, bl, hl⟩ := h.port p
    obtain ⟨m, bm, hm⟩ := g.port p
    exact ⟨l ||| m, by rw [BitVec.or_assoc, bm, bl], by rw [hm, hl, BitVec.or_assoc]⟩
  case pending => rw [g.pending, h.pending]
  case wide => rw [g.wide, h.wide]
  case generation => rw [g.generation, h.generation]
  case changes => rw [g.changes, h.changes]
  case engine => rw [g.engine, h.engine]
  case feeds => rw [g.feeds, h.feeds]
  case monitorIn => rw [g.monitorIn, h.monitorIn]
  case bEff => rw [g.bEff, h.bEff]
  case store => rw [g.store, h.store]
  case protHi => rw [g.protHi, h.protHi]
  case protLo => rw [g.protLo, h.protLo]
  case resetHeld => rw [g.resetHeld, h.resetHeld]
  case now => rw [g.now, h.now]
  case fresh => rw [g.fresh, h.fresh]
  case hold => rw [g.hold, h.hold]
  case trips => rw [g.trips, h.trips]
  case level => rw [g.level, h.level]
  case record => intro k; rw [g.record, h.record]
  case words => intro k; rw [g.words, h.words]
  case primary => intro k; rw [g.primary, h.primary]
  case fallback => intro k; rw [g.fallback, h.fallback]
  case sel => intro k; rw [g.sel, h.sel]
  case retuning => intro k; rw [g.retuning, h.retuning]

/-- A set latch stays set (R162). -/
theorem latched {s t : State} (h : s.AirFrame t) {p : Port} {c : Cause} (hc : (s.port p).latched c = true) :
    (t.port p).latched c = true := by
  obtain ⟨l, _, hl⟩ := h.port p
  rw [hl]
  simp only [PortState.latched, BitVec.getLsbD_or] at hc ⊢
  rw [hc, Bool.true_or]

/-- No latch but TX_STATE moves. -/
theorem latched_of_ne {s t : State} (h : s.AirFrame t) (p : Port) {c : Cause} (hc : c ≠ .txState) :
    (t.port p).latched c = (s.port p).latched c := by
  obtain ⟨l, bl, hl⟩ := h.port p
  rw [hl]
  exact PortState.latched_or_of_le _ bl (by rw [Cause.bit_getLsbD]; simpa using hc.symm)

theorem outcomes {s t : State} (h : s.AirFrame t) (p : Port) : (t.port p).outcomes = (s.port p).outcomes := by
  obtain ⟨l, _, hl⟩ := h.port p; rw [hl]

theorem cmdQueue {s t : State} (h : s.AirFrame t) (p : Port) : (t.port p).cmdQueue = (s.port p).cmdQueue := by
  obtain ⟨l, _, hl⟩ := h.port p; rw [hl]

theorem rspQueue {s t : State} (h : s.AirFrame t) (p : Port) : (t.port p).rspQueue = (s.port p).rspQueue := by
  obtain ⟨l, _, hl⟩ := h.port p; rw [hl]

theorem changed {s t : State} (h : s.AirFrame t) (p : Port) : (t.port p).changed = (s.port p).changed := by
  obtain ⟨l, _, hl⟩ := h.port p; rw [hl]

theorem wanted {s t : State} (h : s.AirFrame t) (k : SlotIx) : (t.slot k).wanted = (s.slot k).wanted :=
  Slot.wanted_congr (h.record k) (h.retuning k) (by rw [h.sel])

theorem holdEmpty {s t : State} (h : s.AirFrame t) : t.holdEmpty = s.holdEmpty := by simp only [State.holdEmpty, h.hold]

theorem samePlan {s t : State} (h : s.AirFrame t) : SamePlan s t := ⟨h.wide, h.record⟩

end State.AirFrame

theorem State.airFrame_setTx (s : State) (t : TxState) : s.AirFrame (s.setTx t) := by
  constructor <;> first | rfl | (intro k; rfl) | exact fun p => ⟨_, by simp, State.port_setTx s t p⟩

theorem State.airFrame_formQuiet (s : State) : s.AirFrame s.formQuiet := by
  constructor <;> first | rfl | (intro k; rfl) | exact fun p => ⟨0, by simp, by simp⟩

theorem State.airFrame_reformAll (s : State) : s.AirFrame s.reformAll := by
  constructor <;> first | (simp; done) | exact fun p => ⟨0, by simp, by simp⟩

theorem State.airFrame_reformSlot (s : State) (k : SlotIx) : s.AirFrame (s.reformSlot k) := by
  constructor <;> first | (simp; done) | exact fun p => ⟨0, by simp, by simp⟩

theorem State.airFrame_govern (s : State) : s.AirFrame s.govern := by
  constructor <;> first | (simp; done) | exact fun p => ⟨0, by simp, by simp⟩

theorem State.airFrame_forceOff (s : State) : s.AirFrame s.forceOff := by
  constructor <;> first | (simp; done) | exact fun p => ⟨0, by simp, by simp⟩

theorem State.airFrame_enterWarmUp (s : State) : s.AirFrame s.enterWarmUp := by
  unfold State.enterWarmUp; split <;> exact s.airFrame_setTx _

theorem State.airFrame_enterOnAir (s : State) : s.AirFrame s.enterOnAir :=
  ((s.airFrame_setTx _).trans (State.airFrame_reformAll _)).trans (State.airFrame_formQuiet _)

theorem State.airFrame_closeIfOff (s : State) : s.AirFrame s.closeIfOff := by
  unfold State.closeIfOff
  split
  · split
    · exact s.airFrame_setTx _
    · exact .refl s
  · exact .refl s

theorem State.airFrame_enterClosing (s : State) (t : Target) : s.AirFrame (s.enterClosing t) :=
  ((s.airFrame_setTx _).trans (State.airFrame_reformAll _)).trans (State.airFrame_closeIfOff _)

theorem State.airFrame_txEnabled (s : State) : s.AirFrame s.txEnabled := by
  unfold State.txEnabled
  split
  · exact s.airFrame_enterWarmUp
  · exact s.airFrame_enterOnAir
  · exact .refl s

theorem State.airFrame_txDisabled (s : State) : s.AirFrame s.txDisabled := by
  unfold State.txDisabled
  split
  · exact s.airFrame_setTx _
  · exact s.airFrame_enterClosing _
  · exact s.airFrame_setTx _
  · exact s.airFrame_setTx _
  · exact .refl s

theorem State.airFrame_wake (s : State) : s.AirFrame s.wake := by
  unfold State.wake
  split
  · exact s.airFrame_enterWarmUp
  · exact s.airFrame_enterOnAir
  · exact .refl s

theorem State.airFrame_quietExpired (s : State) : s.AirFrame s.quietExpired := by
  unfold State.quietExpired
  split
  · exact s.airFrame_enterClosing _
  · exact .refl s

theorem State.airFrame_measureQuiet (s : State) : s.AirFrame s.measureQuiet := by
  unfold State.measureQuiet
  split
  · split
    · exact s.airFrame_formQuiet.trans (State.airFrame_quietExpired _)
    · exact s.airFrame_formQuiet
  · exact s.airFrame_formQuiet

/-! ## What each operation leaves of the output -/

theorem State.enterWarmUp_of_trip {s : State} (h : s.out.level = .trip) : s.enterWarmUp = s.setTx .tripped := by
  unfold State.enterWarmUp; rw [if_pos h]

theorem State.enterWarmUp_of_ne {s : State} (h : s.out.level ≠ .trip) : s.enterWarmUp = s.setTx .warmUp := by
  unfold State.enterWarmUp; rw [if_neg h]

theorem State.enterOnAir_out (s : State) :
    s.enterOnAir.out.state = .onAir ∧ s.enterOnAir.out.paEn = true ∧ s.enterOnAir.out.warmUp = none := by
  simp [State.enterOnAir, TxState.amplifierOn]

theorem State.txEnabled_offAir {s : State} (h : s.out.state = .offAir) : s.txEnabled = s.enterWarmUp := by
  unfold State.txEnabled; rw [h]

theorem State.txEnabled_closing {s : State} (h : s.out.state = .closing .offAir) : s.txEnabled = s.enterOnAir := by
  unfold State.txEnabled; rw [h]

theorem State.txEnabled_same {s : State} (h : s.out.state ≠ .offAir) (h' : s.out.state ≠ .closing .offAir) :
    s.txEnabled = s := by
  unfold State.txEnabled
  split
  · exact absurd ‹_› h
  · exact absurd ‹_› h'
  · rfl

/-- After an entry into CLOSING every slot is turned down; the closing is complete exactly where none still ramps (R124). -/
theorem State.enterClosing_out (s : State) (g : Target) :
    ((∀ k, ((s.enterClosing g).slot k).ramp.state = .off) →
      (s.enterClosing g).out.state = g.state ∧ (s.enterClosing g).out.paEn = false) ∧
      ((∃ k, ((s.enterClosing g).slot k).ramp.state ≠ .off) →
        (s.enterClosing g).out.state = .closing g ∧ (s.enterClosing g).out.paEn = true) ∧
      (s.enterClosing g).out.quiet = none ∧ (s.enterClosing g).out.warmUp = none ∧
      (∀ k, TurnedDown s.wide.rampStep (s.slot k).ramp ((s.enterClosing g).slot k).ramp) ∧
      ∀ p, ((s.enterClosing g).port p).latched .txState = true := by
  have hd : ∀ k, (s.setTx (.closing g)).onDemand k = false := fun k => by
    simp [State.onDemand, State.airOpen]
  have hr : ∀ k, ((s.setTx (.closing g)).reformAll.slot k).ramp = (s.slot k).ramp.react false s.wide.rampStep := fun k => by
    rw [State.reformAll_slot_ramp, hd]; rfl
  have hp : ∀ p, ((s.setTx (.closing g)).reformAll.port p).latched .txState = true := fun p => by
    rw [State.port_reformAll, State.port_setTx, PortState.latched_or]; simp
  have hg : g.state ≠ .onAir ∧ g.state ≠ .warmUp ∧ g.state.amplifierOn = false := by cases g <;> decide
  have hstate : (s.setTx (.closing g)).reformAll.out.state = .closing g := by simp
  unfold State.enterClosing
  generalize hu : (s.setTx (.closing g)).reformAll = u at *
  have ho : u.out.quiet = none ∧ u.out.warmUp = none ∧ u.out.paEn = true := by
    rw [← hu]; simp [TxState.amplifierOn]
  have hk : ∀ k, (u.closeIfOff.slot k).ramp = (u.slot k).ramp := by
    intro k; unfold State.closeIfOff; split <;> (try split) <;> rfl
  have he : u.closeIfOff = if u.allOff then u.setTx g.state else u := by
    unfold State.closeIfOff; rw [hstate]
  refine ⟨fun h => ?_, fun h => ?_, ?_, ?_, fun k => ?_, fun p => ?_⟩
  · have : u.allOff = true := u.allOff_iff.mpr fun k => by rw [← hk]; exact h k
    rw [he, if_pos this]; simp [hg]
  · have : ¬ u.allOff = true := fun ha => by
      obtain ⟨k, hk'⟩ := h
      exact hk' (by rw [hk]; exact u.allOff_iff.mp ha k)
    rw [he, if_neg this]; exact ⟨hstate, ho.2.2⟩
  · rw [he]; split
    · simp [hg]
    · exact ho.1
  · rw [he]; split
    · simp [hg]
    · exact ho.2.1
  · rw [hk, hr]; exact Ramp.react_false _ _
  · exact u.airFrame_closeIfOff.latched (hp p)

/-! ## The laws, operation by operation -/

/-! ### Ramps -/

theorem State.RampLaw.of_ramps {s t : State} (h : s.RampLaw) (hr : ∀ k, (t.slot k).ramp = (s.slot k).ramp) : t.RampLaw :=
  fun k => by rw [hr k]; exact h k

theorem State.RampLaw.setTx {s : State} (h : s.RampLaw) (t : TxState) : (s.setTx t).RampLaw := h.of_ramps fun _ => rfl

theorem State.RampLaw.formQuiet {s : State} (h : s.RampLaw) : s.formQuiet.RampLaw := h.of_ramps fun _ => rfl

theorem State.RampLaw.govern {s : State} (h : s.RampLaw) : s.govern.RampLaw := h.of_ramps fun k => s.govern_slot_ramp k

theorem State.RampLaw.reformAll {s : State} (h : s.RampLaw) : s.reformAll.RampLaw := fun k => by
  rw [State.reformAll_slot_ramp]; exact Ramp.react_lawful _ (h k)

theorem State.RampLaw.reformSlot {s : State} (h : s.RampLaw) (k : SlotIx) : (s.reformSlot k).RampLaw := fun j => by
  rw [State.reformSlot_slot_ramp]
  split
  · exact Ramp.react_lawful _ (h k)
  · exact h j

theorem State.RampLaw.forceOff {s : State} (h : s.RampLaw) : s.forceOff.RampLaw := fun k => by
  rw [State.forceOff_slot_ramp]
  split
  · exact ⟨fun _ => ⟨rfl, rfl⟩, nofun, nofun, nofun⟩
  · exact h k

theorem State.RampLaw.enterWarmUp {s : State} (h : s.RampLaw) : s.enterWarmUp.RampLaw := by
  unfold State.enterWarmUp; split <;> exact h.setTx _

theorem State.RampLaw.enterOnAir {s : State} (h : s.RampLaw) : s.enterOnAir.RampLaw := (h.setTx _).reformAll.formQuiet

theorem State.RampLaw.closeIfOff {s : State} (h : s.RampLaw) : s.closeIfOff.RampLaw := by
  unfold State.closeIfOff
  split
  · split
    · exact h.setTx _
    · exact h
  · exact h

theorem State.RampLaw.enterClosing {s : State} (h : s.RampLaw) (t : Target) : (s.enterClosing t).RampLaw :=
  (h.setTx _).reformAll.closeIfOff

theorem State.RampLaw.txEnabled {s : State} (h : s.RampLaw) : s.txEnabled.RampLaw := by
  unfold State.txEnabled
  split
  · exact h.enterWarmUp
  · exact h.enterOnAir
  · exact h

theorem State.RampLaw.txDisabled {s : State} (h : s.RampLaw) : s.txDisabled.RampLaw := by
  unfold State.txDisabled
  split
  · exact h.setTx .offAir
  · exact h.enterClosing .offAir
  · exact h.setTx (.closing .offAir)
  · exact h.setTx .offAir
  · exact h

theorem State.RampLaw.wake {s : State} (h : s.RampLaw) : s.wake.RampLaw := by
  unfold State.wake
  split
  · exact h.enterWarmUp
  · exact h.enterOnAir
  · exact h

theorem State.RampLaw.quietExpired {s : State} (h : s.RampLaw) : s.quietExpired.RampLaw := by
  unfold State.quietExpired
  split
  · exact h.enterClosing .standby
  · exact h

theorem State.RampLaw.measureQuiet {s : State} (h : s.RampLaw) : s.measureQuiet.RampLaw := by
  unfold State.measureQuiet
  split
  · split
    · exact h.formQuiet.quietExpired
    · exact h.formQuiet
  · exact h.formQuiet

/-! ### The on-demand condition -/

/-- The ramps agree with D wherever they and its terms are as before. -/
theorem State.DemandLaw.of_same {s t : State} (h : s.DemandLaw) (hr : ∀ k, (t.slot k).ramp.state = (s.slot k).ramp.state)
    (ha : t.airOpen = s.airOpen) (hw : ∀ k, (t.slot k).wanted = (s.slot k).wanted) : t.DemandLaw := fun k => by
  rw [hr k, State.onDemand_congr ha (hw k)]; exact h k

/-- With the shared terms of D false, the ramps agree with D exactly where none is on its way up or ON. -/
theorem State.demandLaw_of_closed {s : State} (ha : s.airOpen = false)
    (h : ∀ k, (s.slot k).ramp.state ≠ .rampUp ∧ (s.slot k).ramp.state ≠ .on) : s.DemandLaw := fun k => by
  simp [State.onDemand, ha, (h k).1, (h k).2]

theorem State.DemandLaw.up_closed {s : State} (h : s.DemandLaw) (ha : s.airOpen = false) (k : SlotIx) :
    (s.slot k).ramp.state ≠ .rampUp ∧ (s.slot k).ramp.state ≠ .on := by
  have := (h k).not.mpr (by simp [State.onDemand, ha])
  exact not_or.mp this

/-- Forming every D makes the ramps agree with it. -/
theorem State.demandLaw_reformAll (s : State) : s.reformAll.DemandLaw := fun k => by
  have ha : s.reformAll.airOpen = s.airOpen := State.airOpen_congr (by simp) (by simp)
  rw [State.onDemand_congr ha (s.airFrame_reformAll.wanted k), State.reformAll_slot_ramp]
  exact Ramp.react_up_iff _ _ _

/-- Forming the D of one slot makes the ramps agree with D where the other slots did. -/
theorem State.demandLaw_reformSlot {s : State} {k : SlotIx}
    (h : ∀ j, j ≠ k → (((s.slot j).ramp.state = .rampUp ∨ (s.slot j).ramp.state = .on) ↔ s.onDemand j = true)) :
    (s.reformSlot k).DemandLaw := fun j => by
  have ha : (s.reformSlot k).airOpen = s.airOpen := State.airOpen_congr (by simp) (by simp)
  rw [State.onDemand_congr ha ((s.airFrame_reformSlot k).wanted j), State.reformSlot_slot_ramp]
  by_cases hj : j = k
  · subst hj
    rw [if_pos rfl]
    exact Ramp.react_up_iff _ _ _
  · rw [if_neg hj]
    exact h j hj

theorem State.DemandLaw.formQuiet {s : State} (h : s.DemandLaw) : s.formQuiet.DemandLaw :=
  h.of_same (fun _ => rfl) rfl fun _ => rfl

theorem State.DemandLaw.govern {s : State} (h : s.DemandLaw) : s.govern.DemandLaw :=
  h.of_same (fun k => by simp) (State.airOpen_congr (by simp) (by simp)) (s.airFrame_govern.wanted)

/-- A change between two states that are not ON_AIR moves no D. -/
theorem State.DemandLaw.setTx {s : State} (h : s.DemandLaw) {t : TxState} (hs : s.out.state ≠ .onAir) (ht : t ≠ .onAir) :
    (s.setTx t).DemandLaw :=
  h.of_same (fun _ => rfl) (by simp only [State.airOpen, State.setTx_out, beq_eq_false_iff_ne.mpr hs, beq_eq_false_iff_ne.mpr ht,
    Bool.false_and]) fun _ => rfl

theorem State.DemandLaw.enterWarmUp {s : State} (h : s.DemandLaw) (hs : s.out.state ≠ .onAir) : s.enterWarmUp.DemandLaw := by
  unfold State.enterWarmUp; split <;> exact h.setTx hs (by decide)

theorem State.demandLaw_enterOnAir (s : State) : s.enterOnAir.DemandLaw := (State.demandLaw_reformAll _).formQuiet

theorem State.DemandLaw.closeIfOff {s : State} (h : s.DemandLaw) : s.closeIfOff.DemandLaw := by
  unfold State.closeIfOff
  split
  · rename_i t ht
    split
    · exact h.setTx (by rw [ht]; exact nofun) (by cases t <;> decide)
    · exact h
  · exact h

theorem State.demandLaw_enterClosing (s : State) (t : Target) : (s.enterClosing t).DemandLaw :=
  (State.demandLaw_reformAll _).closeIfOff

theorem State.DemandLaw.txEnabled {s : State} (h : s.DemandLaw) : s.txEnabled.DemandLaw := by
  unfold State.txEnabled
  split
  · rename_i hs; exact h.enterWarmUp (by rw [hs]; decide)
  · exact s.demandLaw_enterOnAir
  · exact h

theorem State.DemandLaw.txDisabled {s : State} (h : s.DemandLaw) : s.txDisabled.DemandLaw := by
  unfold State.txDisabled
  split
  · rename_i hs; exact h.setTx (by rw [hs]; decide) (by decide)
  · exact s.demandLaw_enterClosing _
  · rename_i hs; exact h.setTx (by rw [hs]; decide) (by decide)
  · rename_i hs; exact h.setTx (by rw [hs]; decide) (by decide)
  · exact h

theorem State.DemandLaw.wake {s : State} (h : s.DemandLaw) : s.wake.DemandLaw := by
  unfold State.wake
  split
  · rename_i hs; exact h.enterWarmUp (by rw [hs]; decide)
  · exact s.demandLaw_enterOnAir
  · exact h

theorem State.DemandLaw.quietExpired {s : State} (h : s.DemandLaw) : s.quietExpired.DemandLaw := by
  unfold State.quietExpired
  split
  · exact s.demandLaw_enterClosing _
  · exact h

theorem State.DemandLaw.measureQuiet {s : State} (h : s.DemandLaw) : s.measureQuiet.DemandLaw := by
  unfold State.measureQuiet
  split
  · split
    · exact h.formQuiet.quietExpired
    · exact h.formQuiet
  · exact h.formQuiet

/-! ### The governor -/

theorem State.GovernorLaw.setTx {s : State} (h : s.GovernorLaw) (t : TxState) : (s.setTx t).GovernorLaw :=
  h.of_same rfl rfl rfl fun _ => ⟨rfl, rfl, rfl, rfl, rfl⟩

theorem State.GovernorLaw.formQuiet {s : State} (h : s.GovernorLaw) : s.formQuiet.GovernorLaw :=
  h.of_same rfl rfl rfl fun _ => ⟨rfl, rfl, rfl, rfl, rfl⟩

theorem State.GovernorLaw.reformAll {s : State} (h : s.GovernorLaw) : s.reformAll.GovernorLaw :=
  State.governorLaw_govern (by simpa using h.1)

theorem State.GovernorLaw.reformSlot {s : State} (h : s.bEff = effectiveBudget s.wide.budget s.out.level) (k : SlotIx) :
    (s.reformSlot k).GovernorLaw :=
  State.governorLaw_govern (by simpa using h)

theorem State.GovernorLaw.enterWarmUp {s : State} (h : s.GovernorLaw) : s.enterWarmUp.GovernorLaw := by
  unfold State.enterWarmUp; split <;> exact h.setTx _

theorem State.GovernorLaw.enterOnAir {s : State} (h : s.GovernorLaw) : s.enterOnAir.GovernorLaw :=
  (h.setTx _).reformAll.formQuiet

theorem State.GovernorLaw.closeIfOff {s : State} (h : s.GovernorLaw) : s.closeIfOff.GovernorLaw := by
  unfold State.closeIfOff
  split
  · split
    · exact h.setTx _
    · exact h
  · exact h

theorem State.GovernorLaw.enterClosing {s : State} (h : s.GovernorLaw) (t : Target) : (s.enterClosing t).GovernorLaw :=
  (h.setTx _).reformAll.closeIfOff

theorem State.GovernorLaw.txEnabled {s : State} (h : s.GovernorLaw) : s.txEnabled.GovernorLaw := by
  unfold State.txEnabled
  split
  · exact h.enterWarmUp
  · exact h.enterOnAir
  · exact h

theorem State.GovernorLaw.txDisabled {s : State} (h : s.GovernorLaw) : s.txDisabled.GovernorLaw := by
  unfold State.txDisabled
  split
  · exact h.setTx .offAir
  · exact h.enterClosing .offAir
  · exact h.setTx (.closing .offAir)
  · exact h.setTx .offAir
  · exact h

theorem State.GovernorLaw.wake {s : State} (h : s.GovernorLaw) : s.wake.GovernorLaw := by
  unfold State.wake
  split
  · exact h.enterWarmUp
  · exact h.enterOnAir
  · exact h

theorem State.GovernorLaw.quietExpired {s : State} (h : s.GovernorLaw) : s.quietExpired.GovernorLaw := by
  unfold State.quietExpired
  split
  · exact h.enterClosing .standby
  · exact h

theorem State.GovernorLaw.measureQuiet {s : State} (h : s.GovernorLaw) : s.measureQuiet.GovernorLaw := by
  unfold State.measureQuiet
  split
  · split
    · exact h.formQuiet.quietExpired
    · exact h.formQuiet
  · exact h.formQuiet

/-! ### The air -/

theorem TxState.amplifierOn_iff (t : TxState) :
    t.amplifierOn = true ↔ t = .warmUp ∨ t = .onAir ∨ ∃ g, t = .closing g := by
  cases t <;> simp [TxState.amplifierOn]

theorem State.OnAirLaw.off {s : State} (h : s.OnAirLaw) (hs : s.out.state ≠ .onAir) (hc : ∀ t, s.out.state ≠ .closing t)
    (k : SlotIx) : (s.slot k).ramp.state = .off := by
  by_contra hk
  rcases h k (by simpa [Slot.transmitting] using hk) with h | ⟨t, h⟩
  · exact hs h
  · exact hc t h

theorem State.onAirLaw_of_off {s : State} (h : ∀ k, (s.slot k).ramp.state = .off) : s.OnAirLaw := fun k hk => by
  simp [Slot.transmitting, h k] at hk

theorem State.onAirLaw_of_state {s : State} (h : s.out.state = .onAir ∨ ∃ t, s.out.state = .closing t) : s.OnAirLaw :=
  fun _ _ => h

theorem State.OnAirLaw.of_same {s t : State} (h : s.OnAirLaw) (ho : t.out.state = s.out.state)
    (hr : ∀ k, (t.slot k).ramp.state = (s.slot k).ramp.state) : t.OnAirLaw := fun k hk => by
  rw [ho]; exact h k (by rw [← Slot.transmitting_congr (hr k)]; exact hk)

theorem State.OnAirLaw.formQuiet {s : State} (h : s.OnAirLaw) : s.formQuiet.OnAirLaw := h.of_same rfl fun _ => rfl

theorem State.OnAirLaw.govern {s : State} (h : s.OnAirLaw) : s.govern.OnAirLaw := h.of_same (by simp) fun k => by simp

theorem State.OnAirLaw.setTx_of_off {s : State} (h : ∀ k, (s.slot k).ramp.state = .off) (t : TxState) : (s.setTx t).OnAirLaw :=
  State.onAirLaw_of_off h

theorem State.OnAirLaw.react {s : State} (h : s.OnAirLaw) {k : SlotIx} {rs : Nat}
    (hk : ((s.slot k).ramp.react (s.onDemand k) rs).state ≠ .off) : s.out.state = .onAir ∨ ∃ t, s.out.state = .closing t := by
  by_cases ho : (s.slot k).ramp.state = .off
  · cases hd : s.onDemand k
    · rw [Ramp.react_off ho, hd] at hk; exact absurd ho hk
    · exact .inl ((s.onDemand_iff k).mp hd).1
  · exact h k (by simpa [Slot.transmitting] using ho)

theorem State.OnAirLaw.reformAll {s : State} (h : s.OnAirLaw) : s.reformAll.OnAirLaw := fun k hk => by
  rw [State.reformAll_out]
  simp only [Slot.transmitting, State.reformAll_slot_ramp, bne_iff_ne] at hk
  exact h.react hk

theorem State.OnAirLaw.reformSlot {s : State} (h : s.OnAirLaw) (k : SlotIx) : (s.reformSlot k).OnAirLaw := fun j hj => by
  rw [State.reformSlot_out]
  simp only [Slot.transmitting, State.reformSlot_slot_ramp, bne_iff_ne] at hj
  split at hj
  · exact h.react hj
  · exact h j (by simpa [Slot.transmitting] using hj)

theorem State.onAirLaw_enterOnAir (s : State) : s.enterOnAir.OnAirLaw :=
  State.onAirLaw_of_state (.inl (by simp [State.enterOnAir]))

theorem State.OnAirLaw.enterWarmUp {s : State} (h : ∀ k, (s.slot k).ramp.state = .off) : s.enterWarmUp.OnAirLaw := by
  unfold State.enterWarmUp; split <;> exact State.OnAirLaw.setTx_of_off h _

theorem State.OnAirLaw.closeIfOff {s : State} (h : s.OnAirLaw) : s.closeIfOff.OnAirLaw := by
  unfold State.closeIfOff
  split
  · split
    · rename_i ho; exact State.OnAirLaw.setTx_of_off (s.allOff_iff.mp ho) _
    · exact h
  · exact h

theorem State.onAirLaw_enterClosing (s : State) (t : Target) : (s.enterClosing t).OnAirLaw :=
  State.OnAirLaw.closeIfOff (State.onAirLaw_of_state (.inr ⟨t, by simp⟩))

theorem State.OnAirLaw.txEnabled {s : State} (h : s.OnAirLaw) : s.txEnabled.OnAirLaw := by
  unfold State.txEnabled
  split
  · rename_i hs
    exact State.OnAirLaw.enterWarmUp (h.off (by rw [hs]; decide) fun t => by rw [hs]; simp)
  · exact s.onAirLaw_enterOnAir
  · exact h

theorem State.OnAirLaw.txDisabled {s : State} (h : s.OnAirLaw) : s.txDisabled.OnAirLaw := by
  unfold State.txDisabled
  split
  · rename_i hs
    exact State.OnAirLaw.setTx_of_off (h.off (by rw [hs]; decide) fun t => by rw [hs]; simp) _
  · exact s.onAirLaw_enterClosing _
  · exact State.onAirLaw_of_state (.inr ⟨_, rfl⟩)
  · rename_i hs
    exact State.OnAirLaw.setTx_of_off (h.off (by rw [hs]; decide) fun t => by rw [hs]; simp) _
  · exact h

theorem State.OnAirLaw.wake {s : State} (h : s.OnAirLaw) : s.wake.OnAirLaw := by
  unfold State.wake
  split
  · rename_i hs
    exact State.OnAirLaw.enterWarmUp (h.off (by rw [hs]; decide) fun t => by rw [hs]; simp)
  · exact s.onAirLaw_enterOnAir
  · exact h

theorem State.OnAirLaw.quietExpired {s : State} (h : s.OnAirLaw) : s.quietExpired.OnAirLaw := by
  unfold State.quietExpired
  split
  · exact s.onAirLaw_enterClosing _
  · exact h

theorem State.OnAirLaw.measureQuiet {s : State} (h : s.OnAirLaw) : s.measureQuiet.OnAirLaw := by
  unfold State.measureQuiet
  split
  · split
    · exact h.formQuiet.quietExpired
    · exact h.formQuiet
  · exact h.formQuiet

/-! ### The amplifier and the trip history -/

theorem State.AmplifierLaw.of_out {s t : State} (h : s.AmplifierLaw) (hp : t.out.paEn = s.out.paEn)
    (hs : t.out.state = s.out.state) : t.AmplifierLaw := by
  unfold State.AmplifierLaw at h ⊢; rw [hp, hs]; exact h

theorem State.amplifierLaw_setTx (s : State) (t : TxState) : (s.setTx t).AmplifierLaw := rfl

theorem State.amplifierLaw_enterWarmUp (s : State) : s.enterWarmUp.AmplifierLaw := by
  unfold State.enterWarmUp; split <;> rfl

theorem State.amplifierLaw_enterOnAir (s : State) : s.enterOnAir.AmplifierLaw := by
  simp [State.AmplifierLaw, State.enterOnAir]

theorem State.AmplifierLaw.closeIfOff {s : State} (h : s.AmplifierLaw) : s.closeIfOff.AmplifierLaw := by
  unfold State.closeIfOff
  split
  · split
    · rfl
    · exact h
  · exact h

theorem State.amplifierLaw_enterClosing (s : State) (t : Target) : (s.enterClosing t).AmplifierLaw :=
  State.AmplifierLaw.closeIfOff (by simp [State.AmplifierLaw])

theorem State.AmplifierLaw.txEnabled {s : State} (h : s.AmplifierLaw) : s.txEnabled.AmplifierLaw := by
  unfold State.txEnabled
  split
  · exact s.amplifierLaw_enterWarmUp
  · exact s.amplifierLaw_enterOnAir
  · exact h

theorem State.AmplifierLaw.txDisabled {s : State} (h : s.AmplifierLaw) : s.txDisabled.AmplifierLaw := by
  unfold State.txDisabled
  split
  · exact s.amplifierLaw_setTx _
  · exact s.amplifierLaw_enterClosing _
  · exact s.amplifierLaw_setTx _
  · exact s.amplifierLaw_setTx _
  · exact h

theorem State.AmplifierLaw.wake {s : State} (h : s.AmplifierLaw) : s.wake.AmplifierLaw := by
  unfold State.wake
  split
  · exact s.amplifierLaw_enterWarmUp
  · exact s.amplifierLaw_enterOnAir
  · exact h

theorem State.AmplifierLaw.formQuiet {s : State} (h : s.AmplifierLaw) : s.formQuiet.AmplifierLaw := h

theorem State.AmplifierLaw.quietExpired {s : State} (h : s.AmplifierLaw) : s.quietExpired.AmplifierLaw := by
  unfold State.quietExpired
  split
  · exact s.amplifierLaw_enterClosing _
  · exact h

theorem State.AmplifierLaw.measureQuiet {s : State} (h : s.AmplifierLaw) : s.measureQuiet.AmplifierLaw := by
  unfold State.measureQuiet
  split
  · split
    · exact h.formQuiet.quietExpired
    · exact h.formQuiet
  · exact h.formQuiet

/-- The trip law is kept by whatever leaves the history, and LOCKOUT where it stands. -/
theorem State.TripLaw.of_same {s t : State} (h : s.TripLaw) (ht : t.out.trips = s.out.trips)
    (hs : s.out.state = .lockout → t.out.state = .lockout) : t.TripLaw := by
  unfold State.TripLaw at h ⊢; rw [ht]; exact ⟨h.1, fun h3 => hs (h.2 h3)⟩

/-- The Output Controller leaves LOCKOUT by no operation of these (R131). -/
theorem State.lockout_closeIfOff {s : State} (h : s.out.state = .lockout) : s.closeIfOff = s := by
  unfold State.closeIfOff; rw [h]

theorem State.lockout_txEnabled {s : State} (h : s.out.state = .lockout) : s.txEnabled = s := by
  unfold State.txEnabled; rw [h]

theorem State.lockout_txDisabled {s : State} (h : s.out.state = .lockout) : s.txDisabled = s := by
  unfold State.txDisabled; rw [h]

theorem State.lockout_wake {s : State} (h : s.out.state = .lockout) : s.wake = s := by
  unfold State.wake; rw [h]

theorem State.lockout_quietExpired {s : State} (h : s.out.state = .lockout) : s.quietExpired = s := by
  unfold State.quietExpired; rw [h]; rfl

theorem State.lockout_measureQuiet {s : State} (h : s.out.state = .lockout) : s.measureQuiet.out.state = .lockout := by
  unfold State.measureQuiet
  split
  · split
    · rw [State.lockout_quietExpired (by simpa using h)]; simpa using h
    · simpa using h
  · simpa using h

end Sys2Proof.Machine
end

