-- ==== Sys2Proof/Laws/Selection.lean ====
section
/-! SUPPORT. What the Channel Monitor's and the Path Selector's operations can do: the frame that they all keep, the selection and
the path states that each leaves, and the laws that each keeps. -/

namespace Sys2Proof.Machine

/-! ## The frame -/

/-- The latches that a gain or loss of source can set: TX_STATE and SOURCE (R83, R132). -/
def airBits : BitVec 9 := Cause.txState.bit ||| Cause.source.bit

/-- What an event of the feeds or of the monitor leaves alone: every field but the slots' paths, selections, ramps, grants and
shares, the transmitter state with its amplifier and its two timers, and TX_STATE, SOURCE and changed-slot bits newly set. -/
structure State.FeedFrame (s t : State) : Prop where
  pending : t.pending = s.pending
  wide : t.wide = s.wide
  generation : t.generation = s.generation
  changes : t.changes = s.changes
  engine : t.engine = s.engine
  feeds : t.feeds = s.feeds
  monitorIn : t.monitorIn = s.monitorIn
  bEff : t.bEff = s.bEff
  store : t.store = s.store
  protHi : t.protHi = s.protHi
  protLo : t.protLo = s.protLo
  resetHeld : t.resetHeld = s.resetHeld
  now : t.now = s.now
  fresh : t.fresh = s.fresh
  hold : t.out.hold = s.out.hold
  trips : t.out.trips = s.out.trips
  level : t.out.level = s.out.level
  record : ∀ k, (t.slot k).record = (s.slot k).record
  words : ∀ k, (t.slot k).words = (s.slot k).words
  retuning : ∀ k, (t.slot k).retuning = (s.slot k).retuning
  port : ∀ p, ∃ l c, l ||| airBits = airBits ∧
    t.port p = { s.port p with latches := (s.port p).latches ||| l, changed := (s.port p).changed ||| c }

theorem State.AirFrame.feedFrame {s t : State} (h : s.AirFrame t) : s.FeedFrame t where
  pending := h.pending
  wide := h.wide
  generation := h.generation
  changes := h.changes
  engine := h.engine
  feeds := h.feeds
  monitorIn := h.monitorIn
  bEff := h.bEff
  store := h.store
  protHi := h.protHi
  protLo := h.protLo
  resetHeld := h.resetHeld
  now := h.now
  fresh := h.fresh
  hold := h.hold
  trips := h.trips
  level := h.level
  record := h.record
  words := h.words
  retuning := h.retuning
  port := fun p => by
    obtain ⟨l, bl, hl⟩ := h.port p
    exact ⟨l, 0, by rw [airBits, ← BitVec.or_assoc, bl], by rw [hl]; simp⟩

namespace State.FeedFrame

theorem refl (s : State) : s.FeedFrame s := (State.AirFrame.refl s).feedFrame

theorem trans {s t u : State} (h : s.FeedFrame t) (g : t.FeedFrame u) : s.FeedFrame u := by
  constructor
  case port =>
    intro p
    obtain ⟨l, c, bl, hl⟩ := h.port p
    obtain ⟨m, d, bm, hm⟩ := g.port p
    exact ⟨l ||| m, c ||| d, by rw [BitVec.or_assoc, bm, bl], by rw [hm, hl, BitVec.or_assoc, BitVec.or_assoc]⟩
  case pending => rw [g.pending, h.pending]
  case wide => rw [g.wide, h.wide]
  case generation => rw [g.generation, h.generation]
  case changes => rw [g.changes, h.changes]
  case engine => rw [g.engine, h.engine]
  case feeds => rw [g.feeds, h.feeds]
  case monitorIn => rw [g.monitorIn, h.monitorIn]
  case bEff => rw [g.bEff, h.bEff]
  case store => rw [g.store, h.store]
  case protHi => rw [g.protHi, h.protHi]
  case protLo => rw [g.protLo, h.protLo]
  case resetHeld => rw [g.resetHeld, h.resetHeld]
  case now => rw [g.now, h.now]
  case fresh => rw [g.fresh, h.fresh]
  case hold => rw [g.hold, h.hold]
  case trips => rw [g.trips, h.trips]
  case level => rw [g.level, h.level]
  case record => intro k; rw [g.record, h.record]
  case words => intro k; rw [g.words, h.words]
  case retuning => intro k; rw [g.retuning, h.retuning]

/-- A set latch stays set (R162). -/
theorem latched {s t : State} (h : s.FeedFrame t) {p : Port} {c : Cause} (hc : (s.port p).latched c = true) :
    (t.port p).latched c = true := by
  obtain ⟨l, d, _, hl⟩ := h.port p
  rw [hl]
  simp only [PortState.latched, BitVec.getLsbD_or] at hc ⊢
  rw [hc, Bool.true_or]

/-- A slot in the changed-slot set stays in it (R162). -/
theorem changed {s t : State} (h : s.FeedFrame t) {p : Port} {i : Nat} (hc : (s.port p).changed.getLsbD i = true) :
    (t.port p).changed.getLsbD i = true := by
  obtain ⟨l, d, _, hl⟩ := h.port p
  rw [hl]
  simp only [BitVec.getLsbD_or]
  rw [hc, Bool.true_or]

/-- No latch but TX_STATE and SOURCE moves. -/
theorem latched_of_ne {s t : State} (h : s.FeedFrame t) (p : Port) {c : Cause} (hc : c ≠ .txState) (hs : c ≠ .source) :
    (t.port p).latched c = (s.port p).latched c := by
  obtain ⟨l, d, bl, hl⟩ := h.port p
  rw [hl]
  exact PortState.latched_or_of_le _ bl (by
    rw [airBits, BitVec.getLsbD_or, Cause.bit_getLsbD, Cause.bit_getLsbD]; simpa using ⟨hc.symm, hs.symm⟩)

theorem outcomes {s t : State} (h : s.FeedFrame t) (p : Port) : (t.port p).outcomes = (s.port p).outcomes := by
  obtain ⟨l, d, _, hl⟩ := h.port p; rw [hl]

theorem cmdQueue {s t : State} (h : s.FeedFrame t) (p : Port) : (t.port p).cmdQueue = (s.port p).cmdQueue := by
  obtain ⟨l, d, _, hl⟩ := h.port p; rw [hl]

theorem rspQueue {s t : State} (h : s.FeedFrame t) (p : Port) : (t.port p).rspQueue = (s.port p).rspQueue := by
  obtain ⟨l, d, _, hl⟩ := h.port p; rw [hl]

theorem samePlan {s t : State} (h : s.FeedFrame t) : SamePlan s t := ⟨h.wide, h.record⟩

theorem receiver {s t : State} (h : s.FeedFrame t) (f : Feed) : t.receiver f = s.receiver f := State.receiver_congr h.feeds f

end State.FeedFrame

/-- A new slot that differs in its paths and its selection alone. -/
theorem State.feedFrame_putSlot (s : State) (k : SlotIx) (x : Slot) (hr : x.record = (s.slot k).record)
    (hw : x.words = (s.slot k).words) (hm : x.retuning = (s.slot k).retuning) : s.FeedFrame (s.putSlot k x) := by
  constructor
  case port => exact fun p => ⟨0, 0, by simp, by simp⟩
  case record => intro j; rw [State.slot_putSlot]; split <;> simp_all
  case words => intro j; rw [State.slot_putSlot]; split <;> simp_all
  case retuning => intro j; rw [State.slot_putSlot]; split <;> simp_all
  all_goals rfl

theorem State.feedFrame_latchSource (s : State) (k : SlotIx) : s.FeedFrame (s.latchSource k) := by
  constructor
  case port => exact fun p => ⟨_, _, by decide, State.port_latchSource s k p⟩
  all_goals first | rfl | (intro k; rfl)

theorem State.airFrame_sourceMoved (s : State) (k : SlotIx) : s.AirFrame (s.sourceMoved k) := by
  have h : s.AirFrame (s.reformSlot k).formQuiet := (s.airFrame_reformSlot k).trans (State.airFrame_formQuiet _)
  unfold State.sourceMoved
  simp only
  split
  · exact h.trans (State.airFrame_wake _)
  · exact h

theorem State.feedFrame_applySelection (s : State) (k : SlotIx) (v : Selector) : s.FeedFrame (s.applySelection k v) := by
  have h : s.FeedFrame (s.putSlot k ((s.slot k).select v)) := s.feedFrame_putSlot k _ rfl rfl rfl
  unfold State.applySelection
  simp only
  split
  · exact h
  · split
    · exact (h.trans (State.feedFrame_latchSource _ _)).trans (State.airFrame_sourceMoved _ _).feedFrame
    · exact h.trans (State.feedFrame_latchSource _ _)

theorem State.feedFrame_notice (s : State) (k : SlotIx) (forced : Bool) : s.FeedFrame (s.notice k forced) :=
  s.feedFrame_applySelection k _

@[simp] theorem Slot.putPath_record (x : Slot) (n : PathName) (v : PathState) : (x.putPath n v).record = x.record := by
  cases n <;> rfl

@[simp] theorem Slot.putPath_words (x : Slot) (n : PathName) (v : PathState) : (x.putPath n v).words = x.words := by
  cases n <;> rfl

@[simp] theorem Slot.putPath_sel (x : Slot) (n : PathName) (v : PathState) : (x.putPath n v).sel = x.sel := by cases n <;> rfl

@[simp] theorem Slot.putPath_ramp (x : Slot) (n : PathName) (v : PathState) : (x.putPath n v).ramp = x.ramp := by cases n <;> rfl

@[simp] theorem Slot.putPath_grant (x : Slot) (n : PathName) (v : PathState) : (x.putPath n v).grant = x.grant := by
  cases n <;> rfl

@[simp] theorem Slot.putPath_share (x : Slot) (n : PathName) (v : PathState) : (x.putPath n v).share = x.share := by
  cases n <;> rfl

@[simp] theorem Slot.putPath_retuning (x : Slot) (n : PathName) (v : PathState) : (x.putPath n v).retuning = x.retuning := by
  cases n <;> rfl

@[simp] theorem Slot.path_putPath_self (x : Slot) (n : PathName) (v : PathState) : (x.putPath n v).path n = v := by
  cases n <;> rfl

theorem Slot.path_putPath_of_ne (x : Slot) {m n : PathName} (h : m ≠ n) (v : PathState) :
    (x.putPath n v).path m = x.path m := by
  cases m <;> cases n <;> first | rfl | exact absurd rfl h

theorem State.feedFrame_measure (s : State) (k : SlotIx) (n : PathName) (d : Int) : s.FeedFrame (s.measure k n d) := by
  unfold State.measure
  simp only
  split
  · exact .refl s
  · split
    · have h := s.feedFrame_putSlot k ((s.slot k).putPath n
        (((s.slot k).path n).judge (s.slot k).record (s.measuredLevel (RxPath.feed ‹_›) d))) (by simp) (by simp) (by simp)
      split
      · exact h
      · exact h.trans (State.feedFrame_notice _ _ _)
    · exact .refl s

theorem State.feedFrame_measureSlot (s : State) (k : SlotIx) (d : Delivered) : s.FeedFrame (s.measureSlot k d) := by
  unfold State.measureSlot
  split <;> exact (State.feedFrame_measure _ _ _ _).trans (State.feedFrame_measure _ _ _ _)

/-- The slot whose paths on a feed have been forced BAD (R65). -/
def Slot.unlocked (x : Slot) (f : Feed) : Slot :=
  let x1 := if x.pathOn .primary f then x.putPath .primary .rest else x
  if x.pathOn .fallback f then x1.putPath .fallback .rest else x1

/-- Whether the path in use is on the feed that unlocks (R76). -/
def Slot.forcedOff (x : Slot) (f : Feed) : Bool :=
  match x.sel.source.inUse with
  | some .primary => x.pathOn .primary f
  | some .fallback => x.pathOn .fallback f
  | none => false

theorem State.unlockSlot_eq (s : State) (f : Feed) (k : SlotIx) :
    s.unlockSlot f k =
      if (s.slot k).pathOn .primary f || (s.slot k).pathOn .fallback f then
        (s.putSlot k ((s.slot k).unlocked f)).notice k ((s.slot k).forcedOff f)
      else s := rfl

theorem Slot.unlocked_record (x : Slot) (f : Feed) : (x.unlocked f).record = x.record := by
  unfold Slot.unlocked; simp only; split <;> split <;> simp

theorem Slot.unlocked_words (x : Slot) (f : Feed) : (x.unlocked f).words = x.words := by
  unfold Slot.unlocked; simp only; split <;> split <;> simp

theorem Slot.unlocked_sel (x : Slot) (f : Feed) : (x.unlocked f).sel = x.sel := by
  unfold Slot.unlocked; simp only; split <;> split <;> simp

theorem Slot.unlocked_ramp (x : Slot) (f : Feed) : (x.unlocked f).ramp = x.ramp := by
  unfold Slot.unlocked; simp only; split <;> split <;> simp

theorem Slot.unlocked_grant (x : Slot) (f : Feed) : (x.unlocked f).grant = x.grant := by
  unfold Slot.unlocked; simp only; split <;> split <;> simp

theorem Slot.unlocked_share (x : Slot) (f : Feed) : (x.unlocked f).share = x.share := by
  unfold Slot.unlocked; simp only; split <;> split <;> simp

theorem Slot.unlocked_retuning (x : Slot) (f : Feed) : (x.unlocked f).retuning = x.retuning := by
  unfold Slot.unlocked; simp only; split <;> split <;> simp

/-- Each path on the feed is at rest afterwards, and the other is as it was. -/
theorem Slot.unlocked_path (x : Slot) (f : Feed) (n : PathName) :
    (x.unlocked f).path n = if x.pathOn n f then .rest else x.path n := by
  unfold Slot.unlocked
  cases n <;> simp only <;> split <;> split <;> simp_all [Slot.putPath, Slot.path]

theorem State.feedFrame_unlockSlot (s : State) (f : Feed) (k : SlotIx) : s.FeedFrame (s.unlockSlot f k) := by
  rw [State.unlockSlot_eq]
  split
  · exact (s.feedFrame_putSlot k _ (Slot.unlocked_record _ _) (Slot.unlocked_words _ _) (Slot.unlocked_retuning _ _)).trans
      (State.feedFrame_notice _ _ _)
  · exact .refl s

/-- A sweep over the slots keeps a frame that each of its parts keeps. -/
theorem State.feedFrame_sweep (g : State → SlotIx → State) (h : ∀ (s : State) (k : SlotIx), s.FeedFrame (g s k)) :
    ∀ (l : List SlotIx) (s : State), s.FeedFrame (l.foldl g s)
  | [], s => .refl s
  | k :: l, s => (h s k).trans (State.feedFrame_sweep g h l (g s k))

/-! ## The slot that an operation names, and the others -/

/-- The paths and the selection of a slot, which the Channel Monitor and the Path Selector own. -/
structure Slot.SameListening (x y : Slot) : Prop where
  primary : y.primary = x.primary
  fallback : y.fallback = x.fallback
  sel : y.sel = x.sel

theorem Slot.SameListening.refl (x : Slot) : x.SameListening x := ⟨rfl, rfl, rfl⟩

theorem Slot.SameListening.trans {x y z : Slot} (h : x.SameListening y) (g : y.SameListening z) : x.SameListening z :=
  ⟨g.1.trans h.1, g.2.trans h.2, g.3.trans h.3⟩

theorem Slot.SameListening.path {x y : Slot} (h : x.SameListening y) (n : PathName) : y.path n = x.path n := by
  cases n
  · exact h.1
  · exact h.2

theorem State.AirFrame.listening {s t : State} (h : s.AirFrame t) (k : SlotIx) : (s.slot k).SameListening (t.slot k) :=
  ⟨h.primary k, h.fallback k, h.sel k⟩

/-- A new selection reaches its slot, with the content that R84 gives it. -/
theorem State.applySelection_self (s : State) (k : SlotIx) (v : Selector) :
    ((s.slot k).select v).SameListening ((s.applySelection k v).slot k) := by
  unfold State.applySelection
  simp only
  split
  · rw [State.slot_putSlot_self]; exact .refl _
  · split
    · have h := (((s.putSlot k ((s.slot k).select v)).latchSource k).airFrame_sourceMoved k).listening k
      rwa [State.slot_latchSource, State.slot_putSlot_self] at h
    · rw [State.slot_latchSource, State.slot_putSlot_self]; exact .refl _

theorem State.applySelection_of_ne (s : State) {j k : SlotIx} (h : j ≠ k) (v : Selector) :
    (s.slot j).SameListening ((s.applySelection k v).slot j) := by
  unfold State.applySelection
  simp only
  split
  · rw [State.slot_putSlot_of_ne s h]; exact .refl _
  · split
    · have h' := (((s.putSlot k ((s.slot k).select v)).latchSource k).airFrame_sourceMoved k).listening j
      rwa [State.slot_latchSource, State.slot_putSlot_of_ne s h] at h'
    · rw [State.slot_latchSource, State.slot_putSlot_of_ne s h]; exact .refl _

/-- A change of source state sets SOURCE and the slot's changed-slot bit on both ports (R83). -/
theorem State.applySelection_marks (s : State) (k : SlotIx) {v : Selector} (h : v.source ≠ (s.slot k).sel.source) (p : Port) :
    ((s.applySelection k v).port p).latched .source = true ∧
      ((s.applySelection k v).port p).changed.getLsbD k.val = true := by
  have h0 : (((s.putSlot k ((s.slot k).select v)).latchSource k).port p).latched .source = true ∧
      (((s.putSlot k ((s.slot k).select v)).latchSource k).port p).changed.getLsbD k.val = true := by
    rw [State.port_latchSource]
    refine ⟨?_, ?_⟩
    · simp only [PortState.latched, BitVec.getLsbD_or, Cause.bit_getLsbD]; simp
    · have : (slotBit k).getLsbD k.val = true := by clear h; revert k; decide
      simp only [BitVec.getLsbD_or, this, Bool.or_true]
  unfold State.applySelection
  simp only [if_neg h]
  split
  · exact ⟨(State.airFrame_sourceMoved _ k).latched h0.1, by
      rw [(State.airFrame_sourceMoved _ k).changed p]; exact h0.2⟩
  · exact h0

/-- A new selection with the same source reaches the slot and nothing else. -/
theorem State.applySelection_of_same (s : State) (k : SlotIx) {v : Selector} (h : v.source = (s.slot k).sel.source) :
    s.applySelection k v = s.putSlot k ((s.slot k).select v) := by
  simp only [State.applySelection, if_pos h]

theorem State.notice_self (s : State) (k : SlotIx) (forced : Bool) :
    ((s.slot k).select ((s.slot k).sel.decide (s.slot k).preferred forced s.wide.holdOff)).SameListening
      ((s.notice k forced).slot k) := s.applySelection_self k _

theorem State.notice_of_ne (s : State) {j k : SlotIx} (h : j ≠ k) (forced : Bool) :
    (s.slot j).SameListening ((s.notice k forced).slot j) := s.applySelection_of_ne h _

/-- A notice moves no path state. -/
theorem State.notice_path (s : State) (j k : SlotIx) (forced : Bool) (n : PathName) :
    ((s.notice k forced).slot j).path n = (s.slot j).path n := by
  by_cases h : j = k
  · subst h
    rw [(s.notice_self j forced).path n]; cases n <;> rfl
  · exact (s.notice_of_ne h forced).path n

/-- The level that a measurement of a path reads, and the path state that it leaves (R61 to R64); none where the slot is EMPTY or
has no such path. -/
def State.measured (s : State) (k : SlotIx) (n : PathName) (d : Int) : Option PathState :=
  match (s.slot k).record.path n with
  | none => none
  | some path =>
    if (s.slot k).record.assigned then
      some (((s.slot k).path n).judge (s.slot k).record (s.measuredLevel path.feed d))
    else none

theorem State.measure_none {s : State} {k : SlotIx} {n : PathName} {d : Int} (h : s.measured k n d = none) :
    s.measure k n d = s := by
  unfold State.measured at h
  unfold State.measure
  simp only
  split
  · rfl
  · rename_i path hp
    rw [hp] at h
    simp only at h
    split at h
    · exact absurd h (by simp)
    · rename_i ha; rw [if_neg ha]

theorem State.measure_some {s : State} {k : SlotIx} {n : PathName} {d : Int} {v : PathState} (h : s.measured k n d = some v) :
    s.measure k n d =
      if v.quality = ((s.slot k).path n).quality then s.putSlot k ((s.slot k).putPath n v)
      else (s.putSlot k ((s.slot k).putPath n v)).notice k false := by
  unfold State.measured at h
  unfold State.measure
  simp only
  split at h
  · exact absurd h (by simp)
  · rename_i path hp
    split at h
    · rename_i ha
      have h' := Option.some.inj h
      simp only [hp, if_pos ha, h']
    · exact absurd h (by simp)

/-- The measured path holds what the measurement leaves, and every other path state stays. -/
theorem State.measure_path (s : State) (j k : SlotIx) (n m : PathName) (d : Int) :
    ((s.measure k n d).slot j).path m = if j = k ∧ m = n then (s.measured k n d).getD ((s.slot k).path n) else (s.slot j).path m := by
  have put : ∀ v, ((s.putSlot k ((s.slot k).putPath n v)).slot j).path m = if j = k ∧ m = n then v else (s.slot j).path m := by
    intro v
    rw [State.slot_putSlot]
    by_cases hj : j = k
    · subst hj
      simp only [if_true, true_and]
      by_cases hm : m = n
      · subst hm; simp
      · rw [Slot.path_putPath_of_ne _ hm, if_neg hm]
    · simp [hj]
  cases hv : s.measured k n d with
  | none =>
    rw [State.measure_none hv]
    split
    · rename_i h; rw [h.1, h.2]; rfl
    · rfl
  | some v =>
    rw [State.measure_some hv, Option.getD_some]
    split
    · exact put v
    · rw [State.notice_path]; exact put v

/-- What a measurement reads depends on the slot's record, the measured path and the receivers alone. -/
theorem State.measured_congr {s t : State} {k : SlotIx} {n : PathName} (hr : (t.slot k).record = (s.slot k).record)
    (hp : (t.slot k).path n = (s.slot k).path n) (hf : t.feeds = s.feeds) (d : Int) : t.measured k n d = s.measured k n d := by
  simp only [State.measured, State.measuredLevel, State.receiver_congr hf, hr, hp]

/-- After the two measurements of a slot each of its paths holds what its own measurement leaves. -/
theorem State.measureSlot_path (s : State) (j k : SlotIx) (d : Delivered) (m : PathName) :
    ((s.measureSlot k d).slot j).path m =
      if j = k then
        (s.measured k m (match m with
          | .primary => d.primary
          | .fallback => d.fallback)).getD ((s.slot k).path m)
      else (s.slot j).path m := by
  unfold State.measureSlot
  have fr : ∀ n v, (s.measure k n v).feeds = s.feeds := fun n v => (s.feedFrame_measure k n v).feeds
  have hrec : ∀ n v, ((s.measure k n v).slot k).record = (s.slot k).record := fun n v => (s.feedFrame_measure k n v).record k
  have other : ∀ a b, a ≠ b → ∀ v, ((s.measure k b v).slot k).path a = (s.slot k).path a := by
    intro a b h v; rw [State.measure_path]; simp [h]
  split
  · rw [State.measure_path, State.measured_congr (hrec _ _) (other _ _ (by decide) _) (fr _ _), other _ _ (by decide),
      State.measure_path]
    cases m <;> by_cases hj : j = k <;> simp [hj]
  · rw [State.measure_path, State.measured_congr (hrec _ _) (other _ _ (by decide) _) (fr _ _), other _ _ (by decide),
      State.measure_path]
    cases m <;> by_cases hj : j = k <;> simp [hj]

/-- An unlock leaves each path on the feed at rest, and every other path state as it was (R65). -/
theorem State.unlockSlot_path (s : State) (f : Feed) (j k : SlotIx) (n : PathName) :
    ((s.unlockSlot f k).slot j).path n = if j = k ∧ (s.slot k).pathOn n f = true then .rest else (s.slot j).path n := by
  rw [State.unlockSlot_eq]
  split
  · rw [State.notice_path, State.slot_putSlot]
    by_cases hj : j = k
    · subst hj
      simp only [if_true, true_and, Slot.unlocked_path]
    · simp [hj]
  · rename_i h
    by_cases hj : j = k
    · subst hj
      simp only [Bool.or_eq_true, not_or] at h
      rw [if_neg]
      cases n
      · exact fun g => h.1 g.2
      · exact fun g => h.2 g.2
    · simp [hj]

/-! ## A sweep over the slots -/

theorem slotIndices_nodup : slotIndices.Nodup := by decide

/-- A sweep over distinct slots: where each part sets what is read of its own slot by a rule F, and moves neither what is read of
another slot nor what F gives for it, the sweep leaves F of the first state at each slot in the list. -/
theorem State.sweep_read {α : Type} {g : State → SlotIx → State} (read F : State → SlotIx → α)
    (own : ∀ u k, read (g u k) k = F u k) (other : ∀ u j k, j ≠ k → read (g u k) j = read u j)
    (rule : ∀ u j k, j ≠ k → F (g u k) j = F u j) :
    ∀ (l : List SlotIx) (s : State), l.Nodup → ∀ j, read (l.foldl g s) j = if j ∈ l then F s j else read s j
  | [], s, _, j => by simp
  | k :: l, s, hn, j => by
    obtain ⟨hk, hl⟩ := List.nodup_cons.mp hn
    rw [List.foldl_cons, State.sweep_read read F own other rule l (g s k) hl j]
    by_cases hj : j = k
    · subst hj; simp [hk, own]
    · simp [hj, other s j k hj, rule s j k hj]

/-- A sweep over every slot. -/
theorem State.sweep_all {α : Type} {g : State → SlotIx → State} (read F : State → SlotIx → α)
    (own : ∀ u k, read (g u k) k = F u k) (other : ∀ u j k, j ≠ k → read (g u k) j = read u j)
    (rule : ∀ u j k, j ≠ k → F (g u k) j = F u j) (s : State) (j : SlotIx) : read (slotIndices.foldl g s) j = F s j := by
  rw [State.sweep_read read F own other rule _ _ slotIndices_nodup, if_pos (mem_slotIndices j)]

/-- A sweep keeps a property that each of its parts keeps. -/
theorem State.sweep_keeps {g : State → SlotIx → State} {P : State → Prop} (h : ∀ s k, P s → P (g s k)) :
    ∀ (l : List SlotIx) (s : State), P s → P (l.foldl g s)
  | [], _, hs => hs
  | k :: l, s, hs => State.sweep_keeps h l (g s k) (h s k hs)

end Sys2Proof.Machine
end

