-- ==== Sys2Proof/Laws/Listening.lean ====
section
/-! SUPPORT. The laws through the operations of the Channel Monitor and the Path Selector. -/

namespace Sys2Proof.Machine

/-! ## The selection of one slot -/

/-- What a slot's selection holds whatever its qualities are: part of the selection law and of the fallback law. -/
def Slot.Coherent (x : Slot) : Prop :=
  (x.sel.source = .lost → x.sel.switchPending = false ∧ x.sel.holdOff = none) ∧
    (∀ u, x.sel.source = sourceOf u → x.sel.lastPath = u ∧ (x.sel.switchPending = true → x.sel.holdOff.isSome = true)) ∧
      (x.sel.source = .onFallback → x.record.fallback.isSome = true)

/-- The fallback law of one slot (R78). -/
def Slot.FallbackLawful (x : Slot) : Prop :=
  x.sel.source = .onFallback →
    x.record.fallback.isSome = true ∧ (x.fallback.quality = .good ∨ x.sel.switchPending = true)

theorem Slot.coherent_of_laws {x : Slot} (h : x.SelectionLawful) (g : x.FallbackLawful) : x.Coherent :=
  ⟨fun hl => ⟨(h.1 hl).2.1, (h.1 hl).2.2⟩, fun u hu => ⟨(h.2 u hu).1, (h.2 u hu).2.2.2⟩, fun hf => (g hf).1⟩

theorem Source.cases_inUse (c : Source) : c = .lost ∨ ∃ u, c = sourceOf u := by
  cases c
  · exact .inr ⟨.primary, rfl⟩
  · exact .inr ⟨.fallback, rfl⟩
  · exact .inl rfl

theorem sourceOf_inj {u v : PathName} (h : sourceOf u = sourceOf v) : u = v := by
  cases u <;> cases v <;> first | rfl | cases h

theorem sourceOf_ne_lost (u : PathName) : sourceOf u ≠ .lost := by cases u <;> decide

@[simp] theorem inUse_sourceOf (u : PathName) : (sourceOf u).inUse = some u := by cases u <;> rfl

theorem sourceOf_eq_onFallback {u : PathName} : sourceOf u = .onFallback ↔ u = .fallback := by cases u <;> decide

/-- A preferred path is present and GOOD (R71). -/
theorem Slot.preferred_fallback {x : Slot} (h : x.preferred = some .fallback) :
    x.record.fallback.isSome = true ∧ x.fallback.quality = .good := by
  unfold Slot.preferred at h
  split at h
  · cases h
  · split at h
    · rename_i g; simpa using g
    · cases h

/-- What Table 4.3.1 decides, case by case. -/
theorem Selector.decide_cases (v : Selector) (pref : Option PathName) (forced : Bool) (ho : Nat) :
    (v.source = .lost ∧ pref = none ∧ v.decide pref forced ho = v) ∨
      (∃ n, v.source = .lost ∧ pref = some n ∧ v.decide pref forced ho = v.take n ho) ∨
      (∃ u, v.source = sourceOf u ∧ pref = none ∧ v.decide pref forced ho = v.lose) ∨
      (∃ u, v.source = sourceOf u ∧ pref = some u ∧ v.decide pref forced ho = { v with switchPending := false }) ∨
      (∃ u n, v.source = sourceOf u ∧ pref = some n ∧ u ≠ n ∧ (forced = true ∨ v.holdOff = none) ∧
        v.decide pref forced ho = v.take n ho) ∨
      (∃ u n, v.source = sourceOf u ∧ pref = some n ∧ u ≠ n ∧ forced = false ∧ v.holdOff ≠ none ∧
        v.decide pref forced ho = { v with switchPending := true }) := by
  rcases Source.cases_inUse v.source with hs | ⟨u, hs⟩
  · cases pref with
    | none => exact .inl ⟨hs, rfl, by simp only [Selector.decide, hs, Source.inUse]⟩
    | some n => exact .inr (.inl ⟨n, hs, rfl, by simp only [Selector.decide, hs, Source.inUse]⟩)
  · cases pref with
    | none => exact .inr (.inr (.inl ⟨u, hs, rfl, by simp only [Selector.decide, hs, inUse_sourceOf]⟩))
    | some n =>
      by_cases hu : u = n
      · subst hu
        exact .inr (.inr (.inr (.inl ⟨u, hs, rfl, by simp only [Selector.decide, hs, inUse_sourceOf, if_true]⟩)))
      · by_cases hf : forced = true ∨ v.holdOff = none
        · refine .inr (.inr (.inr (.inr (.inl ⟨u, n, hs, rfl, hu, hf, ?_⟩))))
          have : (forced || v.holdOff.isNone) = true := by
            rcases hf with hf | hf <;> simp [hf]
          simp only [Selector.decide, hs, inUse_sourceOf, if_neg hu, this, if_true]
        · obtain ⟨h1, h2⟩ := not_or.mp hf
          refine .inr (.inr (.inr (.inr (.inr ⟨u, n, hs, rfl, hu, by simpa using h1, h2, ?_⟩))))
          have : (forced || v.holdOff.isNone) = false := by
            simp [by simpa using h1, Option.isNone_eq_false_iff, Option.isSome_iff_ne_none, h2]
          simp only [Selector.decide, hs, inUse_sourceOf, if_neg hu, this]
          rfl

@[simp] theorem Slot.select_preferred (x : Slot) (v : Selector) : (x.select v).preferred = x.preferred := rfl

/-- A path put in use agrees with the qualities that prefer it. -/
theorem Slot.selectionLawful_take {x : Slot} {v : Selector} {n : PathName} {ho : Nat} (h : x.preferred = some n) :
    (x.select (v.take n ho)).SelectionLawful := by
  refine ⟨fun hl => absurd hl (sourceOf_ne_lost n), fun u hu => ?_⟩
  have : n = u := sourceOf_inj hu
  subst this
  exact ⟨rfl, by simp [h], ⟨nofun, fun hn => absurd h hn⟩, nofun⟩

/-- A notice makes the selection agree with the qualities, whatever they were before (R71 to R78). -/
theorem Slot.selectionLawful_decide {x : Slot} (h : x.Coherent) (forced : Bool) (ho : Nat) :
    (x.select (x.sel.decide x.preferred forced ho)).SelectionLawful := by
  rcases x.sel.decide_cases x.preferred forced ho with
    ⟨hs, hp, he⟩ | ⟨n, hs, hp, he⟩ | ⟨u, hs, hp, he⟩ | ⟨u, hs, hp, he⟩ | ⟨u, n, hs, hp, hu, _, he⟩ | ⟨u, n, hs, hp, hu, _, ht, he⟩
  · rw [he]
    refine ⟨fun _ => ⟨hp, (h.1 hs).1, (h.1 hs).2⟩, fun u hu => ?_⟩
    exact absurd (hs.symm.trans hu).symm (sourceOf_ne_lost u)
  · rw [he]; exact Slot.selectionLawful_take hp
  · rw [he]
    exact ⟨fun _ => ⟨hp, rfl, rfl⟩, fun w hw => absurd hw.symm (sourceOf_ne_lost w)⟩
  · rw [he]
    refine ⟨fun hl => absurd (hs.symm.trans hl) (sourceOf_ne_lost u), fun w hw => ?_⟩
    have : u = w := sourceOf_inj (hs.symm.trans hw)
    subst this
    exact ⟨(h.2.1 u hs).1, by simp [hp], ⟨nofun, fun hn => absurd hp hn⟩, nofun⟩
  · rw [he]; exact Slot.selectionLawful_take hp
  · rw [he]
    refine ⟨fun hl => absurd (hs.symm.trans hl) (sourceOf_ne_lost u), fun w hw => ?_⟩
    have : u = w := sourceOf_inj (hs.symm.trans hw)
    subst this
    refine ⟨(h.2.1 u hs).1, by simp [hp], ?_, fun _ => Option.isSome_iff_ne_none.mpr ht⟩
    simp only [Slot.select_preferred, hp]
    simpa [Slot.select] using fun hn => hu hn.symm

theorem Slot.fallbackLawful_take {x : Slot} {v : Selector} {n : PathName} {ho : Nat} (h : x.preferred = some n) :
    (x.select (v.take n ho)).FallbackLawful := by
  intro hf
  have : n = .fallback := sourceOf_eq_onFallback.mp hf
  subst this
  exact ⟨(Slot.preferred_fallback h).1, .inl (Slot.preferred_fallback h).2⟩

theorem Slot.fallbackLawful_decide {x : Slot} (h : x.Coherent) (forced : Bool) (ho : Nat) :
    (x.select (x.sel.decide x.preferred forced ho)).FallbackLawful := by
  rcases x.sel.decide_cases x.preferred forced ho with
    ⟨hs, hp, he⟩ | ⟨n, hs, hp, he⟩ | ⟨u, hs, hp, he⟩ | ⟨u, hs, hp, he⟩ | ⟨u, n, hs, hp, hu, _, he⟩ | ⟨u, n, hs, hp, hu, _, ht, he⟩
  · rw [he]; intro hf; rw [Slot.select] at hf; exact absurd (hs.symm.trans hf) (by decide)
  · rw [he]; exact Slot.fallbackLawful_take hp
  · rw [he]; exact nofun
  · rw [he]
    intro hf
    have : u = .fallback := sourceOf_eq_onFallback.mp (hs.symm.trans hf)
    subst this
    exact ⟨(Slot.preferred_fallback hp).1, .inl (Slot.preferred_fallback hp).2⟩
  · rw [he]; exact Slot.fallbackLawful_take hp
  · rw [he]
    intro hf
    exact ⟨h.2.2 hf, .inr rfl⟩

/-- The content law of one slot (R84). -/
def Slot.ContentLawful (x : Slot) : Prop := x.sel.content = .pilot ↔ x.sel.source = .lost ∧ x.record.lossAction = .pilot

theorem Slot.contentLawful_select (x : Slot) (v : Selector) : (x.select v).ContentLawful := by
  unfold Slot.ContentLawful Slot.select contentOf
  simp only
  split <;> simp_all

/-- The levels of one slot lie within -128..0 (R62). -/
def Slot.LevelLawful (x : Slot) : Prop := ∀ n, -128 ≤ (x.path n).level ∧ (x.path n).level ≤ 0

/-- The four laws of what a slot hears, for one slot. -/
structure Slot.HeardLawful (x : Slot) : Prop where
  selection : x.SelectionLawful
  fallback : x.FallbackLawful
  content : x.ContentLawful
  level : x.LevelLawful

/-- The four laws of what the slots hear, slot by slot. -/
def State.HeardLaw (s : State) : Prop := ∀ k, (s.slot k).HeardLawful

theorem State.heardLaw_iff (s : State) : s.HeardLaw ↔ s.SelectionLaw ∧ s.FallbackLaw ∧ s.ContentLaw ∧ s.LevelLaw :=
  ⟨fun h => ⟨fun k => (h k).1, fun k => (h k).2, fun k => (h k).3, fun k => (h k).4⟩,
    fun h k => ⟨h.1 k, h.2.1 k, h.2.2.1 k, h.2.2.2 k⟩⟩

/-- The four laws read the paths, the selection, and two fields of the record. -/
theorem Slot.HeardLawful.of_same {x y : Slot} (h : x.HeardLawful) (hl : x.SameListening y)
    (hr : y.record.fallback.isSome = x.record.fallback.isSome) (ha : y.record.lossAction = x.record.lossAction) :
    y.HeardLawful := by
  obtain ⟨hs, hf, hc, hv⟩ := h
  have hp : y.preferred = x.preferred := by simp only [Slot.preferred, hl.1, hl.2, hr]
  refine ⟨?_, ?_, ?_, ?_⟩
  · unfold Slot.SelectionLawful; rw [hl.3, hp]; exact hs
  · unfold Slot.FallbackLawful; rw [hl.3, hl.2, hr]; exact hf
  · unfold Slot.ContentLawful; rw [hl.3, ha]; exact hc
  · intro n; rw [hl.path n]; exact hv n

theorem State.AirFrame.heardLaw {s t : State} (h : s.AirFrame t) (hs : s.HeardLaw) : t.HeardLaw := fun k =>
  (hs k).of_same (h.listening k) (by rw [h.record]) (by rw [h.record])

/-- A slot started afresh obeys the four laws. -/
theorem Slot.heardLawful_start (x : Slot) (r : SlotRecord) : (x.start r).HeardLawful where
  selection := ⟨fun _ => ⟨by simp [Slot.preferred, Slot.start, PathState.rest], rfl, rfl⟩,
    fun u hu => absurd hu.symm (sourceOf_ne_lost u)⟩
  fallback := fun h => absurd h (by simp [Slot.start, Selector.rest])
  content := by simp [Slot.ContentLawful, Slot.start, contentOf, Selector.rest]
  level := fun n => by cases n <;> simp [Slot.start, Slot.path, PathState.rest]

theorem State.heardLaw_applySelection {s : State} (h : s.HeardLaw) {k : SlotIx} {v : Selector}
    (hv : ((s.slot k).select v).HeardLawful) : (s.applySelection k v).HeardLaw := fun j => by
  have fr := (s.feedFrame_applySelection k v).record j
  by_cases hj : j = k
  · subst hj
    exact hv.of_same (s.applySelection_self j v) (by rw [fr]; rfl) (by rw [fr]; rfl)
  · exact (h j).of_same (s.applySelection_of_ne hj v) (by rw [fr]) (by rw [fr])

/-- A slot with new path states whose selection is still coherent obeys the laws after its notice. -/
theorem State.heardLaw_notice {s : State} {k : SlotIx} (h : ∀ j, j ≠ k → (s.slot j).HeardLawful) (hc : (s.slot k).Coherent)
    (hl : (s.slot k).LevelLawful) (forced : Bool) : (s.notice k forced).HeardLaw := fun j => by
  have fr := (s.feedFrame_notice k forced).record j
  by_cases hj : j = k
  · subst hj
    have hv : ((s.slot j).select ((s.slot j).sel.decide (s.slot j).preferred forced s.wide.holdOff)).HeardLawful :=
      ⟨Slot.selectionLawful_decide hc _ _, Slot.fallbackLawful_decide hc _ _, Slot.contentLawful_select _ _,
        fun n => by cases n <;> [exact hl .primary; exact hl .fallback]⟩
    exact hv.of_same (s.notice_self j forced) (by rw [fr]; rfl) (by rw [fr]; rfl)
  · exact (h j hj).of_same (s.notice_of_ne hj forced) (by rw [fr]) (by rw [fr])

theorem PathState.judge_level (r : SlotRecord) (l : Int) (v : PathState) : (PathState.judge r l v).level = l := by
  unfold PathState.judge
  split <;> split <;> (try split) <;> rfl

/-- Table 3.2.1, clause by clause. -/
theorem PathState.judged (r : SlotRecord) (l : Int) (v : PathState) : Judged r l v (PathState.judge r l v) := by
  refine ⟨PathState.judge_level r l v, ?_, ?_, ?_, ?_, ?_, ?_⟩ <;> intro hq <;> simp only [PathState.judge, hq]
  · intro h1 h2; rw [if_pos h1, if_pos h2]; exact ⟨rfl, rfl⟩
  · intro h1 h2; rw [if_pos h1, if_neg (by omega)]; exact ⟨rfl, rfl⟩
  · intro h1; rw [if_neg (by omega)]; exact ⟨rfl, rfl⟩
  · intro h1 h2; rw [if_pos h1, if_pos h2]; exact ⟨rfl, rfl⟩
  · intro h1 h2; rw [if_pos h1, if_neg (by omega)]; exact ⟨rfl, rfl⟩
  · intro h1; rw [if_neg (by omega)]; exact ⟨rfl, rfl⟩

theorem State.measuredLevel_range (s : State) (f : Feed) (d : Int) : -128 ≤ s.measuredLevel f d ∧ s.measuredLevel f d ≤ 0 := by
  unfold State.measuredLevel; split <;> omega

/-- R62, clause by clause. -/
theorem State.readAs_measuredLevel (s : State) (f : Feed) (d : Int) : ReadAs s f d (s.measuredLevel f d) := by
  unfold ReadAs State.measuredLevel
  refine ⟨fun h => ?_, fun h => ?_⟩
  · rw [if_neg (by rw [h]; decide)]
  · rw [if_pos h]; omega

theorem State.measured_level {s : State} {k : SlotIx} {n : PathName} {d : Int} {v : PathState} (h : s.measured k n d = some v) :
    -128 ≤ v.level ∧ v.level ≤ 0 := by
  unfold State.measured at h
  split at h
  · cases h
  · split at h
    · rw [← Option.some.inj h, PathState.judge_level]; exact s.measuredLevel_range _ _
    · cases h

theorem Slot.levelLawful_putPath {x : Slot} (h : x.LevelLawful) (n : PathName) {v : PathState} (hv : -128 ≤ v.level ∧ v.level ≤ 0) :
    (x.putPath n v).LevelLawful := fun m => by
  by_cases hm : m = n
  · subst hm; rw [Slot.path_putPath_self]; exact hv
  · rw [Slot.path_putPath_of_ne _ hm]; exact h m

theorem Slot.Coherent.of_sel {x y : Slot} (h : x.Coherent) (hs : y.sel = x.sel) (hr : y.record = x.record) : y.Coherent := by
  unfold Slot.Coherent; rw [hs, hr]; exact h

theorem State.HeardLaw.measure {s : State} (h : s.HeardLaw) (k : SlotIx) (n : PathName) (d : Int) : (s.measure k n d).HeardLaw := by
  cases hv : s.measured k n d with
  | none => rw [State.measure_none hv]; exact h
  | some v =>
    rw [State.measure_some hv]
    have hl := Slot.levelLawful_putPath (h k).level n (State.measured_level hv)
    split
    · rename_i hq
      intro j
      by_cases hj : j = k
      · subst hj
        rw [State.slot_putSlot_self]
        have hp : ((s.slot j).putPath n v).preferred = (s.slot j).preferred := by
          cases n <;> simp_all [Slot.preferred, Slot.putPath, Slot.path]
        refine ⟨?_, ?_, ?_, hl⟩
        · have := (h j).selection
          unfold Slot.SelectionLawful at this ⊢
          rw [hp, Slot.putPath_sel]; exact this
        · intro hf
          rw [Slot.putPath_sel] at hf ⊢
          rw [Slot.putPath_record]
          refine ⟨((h j).fallback hf).1, ?_⟩
          cases n
          · exact ((h j).fallback hf).2
          · rw [show (Slot.putPath (s.slot j) .fallback v).fallback = v from rfl, hq]; exact ((h j).fallback hf).2
        · have := (h j).content
          unfold Slot.ContentLawful at this ⊢
          rw [Slot.putPath_sel, Slot.putPath_record]; exact this
      · rw [State.slot_putSlot_of_ne s hj]; exact h j
    · refine State.heardLaw_notice (fun j hj => ?_) ?_ ?_ _
      · rw [State.slot_putSlot_of_ne s hj]; exact h j
      · rw [State.slot_putSlot_self]
        exact (Slot.coherent_of_laws (h k).1 (h k).2).of_sel (by simp) (by simp)
      · rw [State.slot_putSlot_self]; exact hl

theorem State.HeardLaw.measureSlot {s : State} (h : s.HeardLaw) (k : SlotIx) (d : Delivered) : (s.measureSlot k d).HeardLaw := by
  unfold State.measureSlot; split <;> exact (h.measure _ _ _).measure _ _ _

theorem State.HeardLaw.unlockSlot {s : State} (h : s.HeardLaw) (f : Feed) (k : SlotIx) : (s.unlockSlot f k).HeardLaw := by
  rw [State.unlockSlot_eq]
  split
  · refine State.heardLaw_notice (fun j hj => ?_) ?_ ?_ _
    · rw [State.slot_putSlot_of_ne s hj]; exact h j
    · rw [State.slot_putSlot_self]
      exact (Slot.coherent_of_laws (h k).1 (h k).2).of_sel (Slot.unlocked_sel _ _) (Slot.unlocked_record _ _)
    · rw [State.slot_putSlot_self]
      intro n
      rw [Slot.unlocked_path]
      split
      · exact ⟨by decide, by decide⟩
      · exact (h k).level n
  · exact h

/-- Two selections that both have a source, or both have none. -/
def Selector.hasSourceAs (v w : Selector) : Prop := (v.source != .lost) = (w.source != .lost)

/-! ## The other laws through a new selection -/

theorem State.RampLaw.sourceMoved {s : State} (h : s.RampLaw) (k : SlotIx) : (s.sourceMoved k).RampLaw := by
  unfold State.sourceMoved
  simp only
  split
  · exact (h.reformSlot k).formQuiet.wake
  · exact (h.reformSlot k).formQuiet

theorem State.DemandLaw.sourceMoved {s : State} {k : SlotIx}
    (h : ∀ j, j ≠ k → (((s.slot j).ramp.state = .rampUp ∨ (s.slot j).ramp.state = .on) ↔ s.onDemand j = true)) :
    (s.sourceMoved k).DemandLaw := by
  unfold State.sourceMoved
  simp only
  split
  · exact (State.demandLaw_reformSlot h).formQuiet.wake
  · exact (State.demandLaw_reformSlot h).formQuiet

theorem State.GovernorLaw.sourceMoved {s : State} (h : s.GovernorLaw) (k : SlotIx) : (s.sourceMoved k).GovernorLaw := by
  unfold State.sourceMoved
  simp only
  split
  · exact (State.GovernorLaw.reformSlot h.1 k).formQuiet.wake
  · exact (State.GovernorLaw.reformSlot h.1 k).formQuiet

theorem State.OnAirLaw.sourceMoved {s : State} (h : s.OnAirLaw) (k : SlotIx) : (s.sourceMoved k).OnAirLaw := by
  unfold State.sourceMoved
  simp only
  split
  · exact (h.reformSlot k).formQuiet.wake
  · exact (h.reformSlot k).formQuiet

theorem State.AmplifierLaw.sourceMoved {s : State} (h : s.AmplifierLaw) (k : SlotIx) : (s.sourceMoved k).AmplifierLaw := by
  have h' : (s.reformSlot k).formQuiet.AmplifierLaw := h.of_out (by simp) (by simp)
  unfold State.sourceMoved
  simp only
  split
  · exact h'.wake
  · exact h'

theorem State.lockout_sourceMoved {s : State} (h : s.out.state = .lockout) (k : SlotIx) :
    (s.sourceMoved k).out.state = .lockout := by
  have h' : (s.reformSlot k).formQuiet.out.state = .lockout := by simpa using h
  unfold State.sourceMoved
  simp only
  split
  · rw [State.lockout_wake h']; exact h'
  · exact h'

theorem State.lockout_applySelection {s : State} (h : s.out.state = .lockout) (k : SlotIx) (v : Selector) :
    (s.applySelection k v).out.state = .lockout := by
  unfold State.applySelection
  simp only
  split
  · exact h
  · split
    · exact State.lockout_sourceMoved (s := (s.putSlot k ((s.slot k).select v)).latchSource k) h k
    · exact h

theorem State.TripLaw.applySelection {s : State} (h : s.TripLaw) (k : SlotIx) (v : Selector) : (s.applySelection k v).TripLaw :=
  h.of_same (s.feedFrame_applySelection k v).trips fun hs => State.lockout_applySelection hs k v

theorem State.slot_put_ramp (s : State) (j k : SlotIx) (x : Slot) (h : x.ramp = (s.slot k).ramp) :
    ((s.putSlot k x).slot j).ramp = (s.slot j).ramp := by
  rw [State.slot_putSlot]; split <;> simp_all

/-- A new slot whose ramp is the old one keeps what reads the ramps alone. -/
theorem State.RampLaw.putSlot {s : State} (h : s.RampLaw) {k : SlotIx} {x : Slot} (hx : x.ramp = (s.slot k).ramp) :
    (s.putSlot k x).RampLaw := h.of_ramps fun j => s.slot_put_ramp j k x hx

theorem State.OnAirLaw.putSlot {s : State} (h : s.OnAirLaw) {k : SlotIx} {x : Slot} (hx : x.ramp = (s.slot k).ramp) :
    (s.putSlot k x).OnAirLaw := h.of_same rfl fun j => by rw [s.slot_put_ramp j k x hx]

theorem State.DemandLaw.putSlot {s : State} (h : s.DemandLaw) {k : SlotIx} {x : Slot} (hx : x.ramp = (s.slot k).ramp)
    (hw : x.wanted = (s.slot k).wanted) : (s.putSlot k x).DemandLaw :=
  h.of_same (fun j => by rw [s.slot_put_ramp j k x hx]) rfl fun j => by rw [State.slot_putSlot]; split <;> simp_all

theorem State.GovernorLaw.putSlot {s : State} (h : s.GovernorLaw) {k : SlotIx} {x : Slot} (hx : x.ramp = (s.slot k).ramp)
    (hg : x.grant = (s.slot k).grant) (hs : x.share = (s.slot k).share) (hr : x.record = (s.slot k).record) :
    (s.putSlot k x).GovernorLaw :=
  h.of_same rfl rfl rfl fun j => by rw [State.slot_putSlot]; split <;> simp_all

theorem State.RampLaw.applySelection {s : State} (h : s.RampLaw) (k : SlotIx) (v : Selector) : (s.applySelection k v).RampLaw := by
  have h' : (s.putSlot k ((s.slot k).select v)).RampLaw := h.putSlot rfl
  unfold State.applySelection
  simp only
  split
  · exact h'
  · split
    · exact State.RampLaw.sourceMoved (s := (s.putSlot k ((s.slot k).select v)).latchSource k) (h'.of_ramps fun _ => rfl) k
    · exact h'.of_ramps fun _ => rfl

theorem State.OnAirLaw.applySelection {s : State} (h : s.OnAirLaw) (k : SlotIx) (v : Selector) : (s.applySelection k v).OnAirLaw := by
  have h' : (s.putSlot k ((s.slot k).select v)).OnAirLaw := h.putSlot rfl
  unfold State.applySelection
  simp only
  split
  · exact h'
  · split
    · exact State.OnAirLaw.sourceMoved (s := (s.putSlot k ((s.slot k).select v)).latchSource k)
        (h'.of_same rfl fun _ => rfl) k
    · exact h'.of_same rfl fun _ => rfl

theorem State.AmplifierLaw.applySelection {s : State} (h : s.AmplifierLaw) (k : SlotIx) (v : Selector) :
    (s.applySelection k v).AmplifierLaw := by
  unfold State.applySelection
  simp only
  split
  · exact h
  · split
    · exact State.AmplifierLaw.sourceMoved (s := (s.putSlot k ((s.slot k).select v)).latchSource k) h k
    · exact h

theorem State.GovernorLaw.applySelection {s : State} (h : s.GovernorLaw) (k : SlotIx) (v : Selector) :
    (s.applySelection k v).GovernorLaw := by
  have h' : (s.putSlot k ((s.slot k).select v)).GovernorLaw := h.putSlot rfl rfl rfl rfl
  have h2 : ((s.putSlot k ((s.slot k).select v)).latchSource k).GovernorLaw :=
    h'.of_same rfl rfl rfl fun _ => ⟨rfl, rfl, rfl, rfl, rfl⟩
  unfold State.applySelection
  simp only
  split
  · exact h'
  · split
    · exact h2.sourceMoved k
    · exact h2

theorem State.DemandLaw.applySelection {s : State} (h : s.DemandLaw) (k : SlotIx) (v : Selector) : (s.applySelection k v).DemandLaw := by
  have hne : ∀ j, j ≠ k → ((s.putSlot k ((s.slot k).select v)).latchSource k).slot j = s.slot j := fun j hj =>
    State.slot_putSlot_of_ne s hj _
  have same : v.hasSourceAs (s.slot k).sel → (s.putSlot k ((s.slot k).select v)).DemandLaw := fun hv =>
    h.putSlot rfl (by
      simp only [Slot.wanted, Slot.hasSource, Slot.select]
      rw [hv])
  unfold State.applySelection
  simp only
  split
  · rename_i he; exact same (by rw [Selector.hasSourceAs, he])
  · split
    · refine State.DemandLaw.sourceMoved fun j hj => ?_
      have ho : ((s.putSlot k ((s.slot k).select v)).latchSource k).onDemand j = s.onDemand j :=
        State.onDemand_congr rfl (by rw [hne j hj])
      rw [hne j hj, ho]; exact h j
    · rename_i hn
      exact (same (by simpa [Selector.hasSourceAs, bne] using hn)).of_same (fun _ => rfl) rfl fun _ => rfl

end Sys2Proof.Machine
end

