-- ==== Sys2Proof/Laws/Engine.lean ====
section
/-! SUPPORT. What applications, drains and takings can do: their frames, and the laws that each keeps. -/

namespace Sys2Proof.Machine

/-! ## The frame of every command -/

/-- What no command moves: the queue of commands, the clock and the counter of the free values. -/
structure State.RunFrame (s t : State) : Prop where
  pending : t.pending = s.pending
  now : t.now = s.now
  fresh : t.fresh = s.fresh

namespace State.RunFrame

theorem refl (s : State) : s.RunFrame s := ⟨rfl, rfl, rfl⟩

theorem trans {s t u : State} (h : s.RunFrame t) (g : t.RunFrame u) : s.RunFrame u :=
  ⟨g.1.trans h.1, g.2.trans h.2, g.3.trans h.3⟩

theorem before {s t u : State} (g : t.RunFrame u) (h1 : t.pending = s.pending) (h2 : t.now = s.now) (h3 : t.fresh = s.fresh) :
    s.RunFrame u :=
  trans ⟨h1, h2, h3⟩ g

end State.RunFrame

theorem State.AirFrame.runFrame {s t : State} (h : s.AirFrame t) : s.RunFrame t := ⟨h.pending, h.now, h.fresh⟩

theorem State.FeedFrame.runFrame {s t : State} (h : s.FeedFrame t) : s.RunFrame t := ⟨h.pending, h.now, h.fresh⟩

/-! ## Applications -/

@[simp] theorem State.commit_generation (s : State) (e : Entry) : (s.commit e).generation = s.generation + 1 := rfl

theorem State.port_commit_self (s : State) (e : Entry) :
    (s.commit e).port e.origin =
      { s.port e.origin with
        outcomes := pushOutcome (s.port e.origin).outcomes (e.outcome .applied (some (s.generation + 1)))
        latches := (s.port e.origin).latches ||| Cause.outcome.bit } := by
  unfold State.commit State.placeOutcome State.latch
  simp only [State.port_modPort_of_ne _ (otherPort_ne e.origin).symm, State.port_modPort_self]
  rfl

theorem State.port_commit_other (s : State) (e : Entry) :
    (s.commit e).port (otherPort e.origin) =
      { s.port (otherPort e.origin) with latches := (s.port (otherPort e.origin)).latches ||| Cause.plan.bit } := by
  unfold State.commit State.placeOutcome State.latch
  simp only [State.port_modPort_other, State.port_modPort_self]
  rfl

/-- A commit leaves on the ports what every application leaves (R41). -/
theorem State.applied_commit {s u : State} {e f : Entry} (ho : ∀ p, (u.port p).outcomes = (s.port p).outcomes)
    (hg : u.generation = s.generation) (h1 : f.origin = e.origin) (h2 : f.ticket = e.ticket)
    (h3 : f.change.kind = e.change.kind) (h4 : f.change.argument = e.change.argument) : Applied s (u.commit f) e := by
  obtain ⟨t, p, c, ch, g⟩ := e
  obtain ⟨t', p', c', ch', g'⟩ := f
  simp only at h1 h2 h3 h4
  subst h1 h2
  refine ⟨by simp [hg], ?_, ?_, ?_, ?_⟩
  · rw [State.port_commit_self]
    simp only [ho, hg, Entry.outcome, h3, h4]
  · rw [State.port_commit_other]; exact ho _
  · rw [State.port_commit_self]
    simp [PortState.latched, Cause.bit_getLsbD]
  · rw [State.port_commit_other]
    simp [PortState.latched, Cause.bit_getLsbD]

theorem clampChange_kind (c : Change) : (clampChange c).kind = c.kind := by cases c <;> rfl

theorem clampChange_argument (c : Change) : (clampChange c).argument = c.argument := by cases c <;> rfl

/-- The slot after the application of a record (R46, R67, R85). -/
theorem State.applyRecord_listening (s : State) (k : SlotIx) (r : SlotRecord) :
    ((s.slot k).start r).SameListening ((s.applyRecord k r).slot k) := by
  unfold State.applyRecord
  simp only
  split
  · have h := ((((s.modSlot k fun x => x.start r).latchSource k).airFrame_reformSlot k).trans
      (State.airFrame_formQuiet _)).listening k
    rwa [State.slot_latchSource, State.slot_modSlot_self] at h
  · have h := (((s.modSlot k fun x => x.start r).airFrame_reformSlot k).trans (State.airFrame_formQuiet _)).listening k
    rwa [State.slot_modSlot_self] at h

/-- What the application of a record leaves alone: every field but the slot, the ramps, grants and shares, the quiet timer, and
SOURCE with the slot's changed-slot bit newly set. -/
structure State.RecordFrame (k : SlotIx) (s t : State) : Prop where
  pending : t.pending = s.pending
  wide : t.wide = s.wide
  generation : t.generation = s.generation
  changes : t.changes = s.changes
  engine : t.engine = s.engine
  feeds : t.feeds = s.feeds
  monitorIn : t.monitorIn = s.monitorIn
  bEff : t.bEff = s.bEff
  store : t.store = s.store
  protHi : t.protHi = s.protHi
  protLo : t.protLo = s.protLo
  resetHeld : t.resetHeld = s.resetHeld
  now : t.now = s.now
  fresh : t.fresh = s.fresh
  out : t.out = { s.out with quiet := t.out.quiet }
  slot : ∀ j, j ≠ k → t.slot j = { s.slot j with grant := (t.slot j).grant, share := (t.slot j).share }
  port : ∀ p, ∃ l c, l ||| Cause.source.bit = Cause.source.bit ∧
    t.port p = { s.port p with latches := (s.port p).latches ||| l, changed := (s.port p).changed ||| c }

theorem State.slot_reformSlot_of_ne (s : State) {j k : SlotIx} (h : j ≠ k) :
    (s.reformSlot k).slot j =
      { s.slot j with grant := ((s.reformSlot k).slot j).grant, share := ((s.reformSlot k).slot j).share } := by
  simp only [State.reformSlot, State.slot_govern, State.slot_reactSlot, if_neg h]

theorem State.recordFrame_applyRecord (s : State) (k : SlotIx) (r : SlotRecord) : s.RecordFrame k (s.applyRecord k r) := by
  unfold State.applyRecord
  simp only
  constructor
  case slot =>
    intro j hj
    rw [State.slot_formQuiet, State.slot_reformSlot_of_ne _ hj]
    split
    · rw [State.slot_latchSource, State.slot_modSlot_of_ne _ hj]
    · rw [State.slot_modSlot_of_ne _ hj]
  case port =>
    intro p
    split
    · exact ⟨_, _, BitVec.or_self, by rw [State.port_formQuiet, State.port_reformSlot, State.port_latchSource, State.port_modSlot]⟩
    · exact ⟨0, 0, by simp, by rw [State.port_formQuiet, State.port_reformSlot, State.port_modSlot]; simp⟩
  all_goals (split <;> simp)

/-- The record, the words and the mark of the slot afterwards. -/
theorem State.applyRecord_record (s : State) (k : SlotIx) (r : SlotRecord) :
    ((s.applyRecord k r).slot k).record = r ∧ ((s.applyRecord k r).slot k).words = wordsOf r ∧
      ((s.applyRecord k r).slot k).retuning = false := by
  unfold State.applyRecord
  simp only
  split <;> simp [Slot.start]

/-- The ramp of the slot afterwards: its D is formed from the new record (R46, R100). -/
theorem State.applyRecord_ramp (s : State) (k : SlotIx) (r : SlotRecord) :
    ((s.applyRecord k r).slot k).ramp = (s.slot k).ramp.react (s.airOpen && ((s.slot k).start r).wanted) s.wide.rampStep := by
  unfold State.applyRecord
  simp only
  split
  · rw [State.slot_formQuiet, State.reformSlot_slot_ramp_self]
    simp only [State.latchSource_wide, State.modSlot_wide, State.slot_latchSource, State.slot_modSlot_self, State.onDemand]
    rfl
  · rw [State.slot_formQuiet, State.reformSlot_slot_ramp_self]
    simp only [State.modSlot_wide, State.slot_modSlot_self, State.onDemand]
    rfl

/-! ## Ends of drains -/

theorem State.afterOff_of_idle {s : State} (h : ∀ e, s.engine ≠ .draining e) : s.afterOff = s.closeIfOff := by
  have : s.endDrain = s := by
    unfold State.endDrain
    split
    · rename_i e he; exact absurd he (h e)
    · rfl
  rw [State.afterOff, this]

theorem State.runFrame_modSlot (s : State) (k : SlotIx) (f : Slot → Slot) : s.RunFrame (s.modSlot k f) := ⟨rfl, rfl, rfl⟩

theorem State.runFrame_commit (s : State) (e : Entry) : s.RunFrame (s.commit e) := ⟨rfl, rfl, rfl⟩

theorem State.runFrame_applyRecord (s : State) (k : SlotIx) (r : SlotRecord) : s.RunFrame (s.applyRecord k r) :=
  ⟨(s.recordFrame_applyRecord k r).pending, (s.recordFrame_applyRecord k r).now, (s.recordFrame_applyRecord k r).fresh⟩

theorem State.runFrame_endDrain (s : State) : s.RunFrame s.endDrain := by
  have key : ∀ k r e, s.RunFrame ((({ s with engine := .idle }).applyRecord k r).commit e) := fun k r e =>
    ((State.runFrame_applyRecord { s with engine := .idle } k r).trans (State.runFrame_commit _ e)).before (s := s) rfl rfl rfl
  unfold State.endDrain
  split
  · split
    · split
      · exact .refl s
      · exact key _ _ _
    · split
      · exact .refl s
      · exact key _ _ _
    · split
      · exact ⟨rfl, rfl, rfl⟩
      · exact .refl s
    · exact .refl s
  · exact .refl s

theorem State.runFrame_afterOff (s : State) : s.RunFrame s.afterOff :=
  s.runFrame_endDrain.trans (State.airFrame_closeIfOff _).runFrame

theorem State.runFrame_trip (s : State) : s.RunFrame s.trip :=
  (((State.airFrame_setTx { s with out := { s.out with trips := s.out.trips ++ [s.now] } } _).runFrame.trans
    (State.airFrame_forceOff _).runFrame).trans (State.runFrame_afterOff _)).before (s := s) rfl rfl rfl

theorem State.runFrame_leaveTripped (s : State) : s.RunFrame s.leaveTripped := by
  unfold State.leaveTripped
  split
  · exact s.airFrame_enterWarmUp.runFrame
  · exact (s.airFrame_setTx _).runFrame

theorem State.runFrame_changeLevel (s : State) (l : Protection) : s.RunFrame (s.changeLevel l) := by
  have h : s.RunFrame ((({ s with out := { s.out with level := l } }).latchBoth .protection).formBudget).govern :=
    ⟨by simp, by simp, by simp⟩
  unfold State.changeLevel
  simp only
  split
  · split
    · exact h.trans (State.runFrame_trip _)
    · exact h
  · split
    · exact h.trans (State.runFrame_leaveTripped _)
    · exact h

/-! ## Takings -/

theorem State.runFrame_takeSlotChange (s : State) (e : Entry) (k : SlotIx) (r : SlotRecord) :
    s.RunFrame (s.takeSlotChange e k r) := by
  unfold State.takeSlotChange
  split
  · exact ((State.airFrame_reformSlot (({ s with engine := .draining e }).modSlot k fun x => { x with retuning := true })
      k).runFrame.trans (State.runFrame_afterOff _)).before (s := s) rfl rfl rfl
  · exact (State.runFrame_applyRecord s k r).trans (State.runFrame_commit _ e)

theorem State.runFrame_applyEnable (s : State) (k : SlotIx) (v : Bool) : s.RunFrame (s.applyEnable k v) := by
  have h : s.RunFrame ((s.modSlot k fun x => { x with record := { x.record with enabled := v } }).reformSlot k).formQuiet :=
    (State.RunFrame.trans (s.runFrame_modSlot k _) (State.airFrame_reformSlot _ k).runFrame).trans
      (State.airFrame_formQuiet _).runFrame
  unfold State.applyEnable
  simp only
  split
  · exact h.trans (State.airFrame_wake _).runFrame
  · exact h

theorem State.runFrame_applyParams (s : State) (b rs wc q ho : Nat) : s.RunFrame (s.applyParams b rs wc q ho) := by
  unfold State.applyParams
  exact State.RunFrame.trans ⟨by simp, by simp, by simp⟩ (State.airFrame_measureQuiet _).runFrame

theorem State.runFrame_txEnableWritten (s : State) (v : Bool) : s.RunFrame (s.txEnableWritten v) := by
  unfold State.txEnableWritten
  split
  · exact .refl s
  · split
    · exact s.airFrame_txEnabled.runFrame
    · exact s.airFrame_txDisabled.runFrame

theorem State.runFrame_applyTransmit (s : State) (v : Bool) : s.RunFrame (s.applyTransmit v) :=
  (State.runFrame_txEnableWritten { s with wide := { s.wide with txEnable := v } } _).before (s := s) rfl rfl rfl

theorem State.runFrame_applyClearLockout (s : State) : s.RunFrame s.applyClearLockout := by
  have h : s.RunFrame (({ s with out := { s.out with trips := [] } }).setTx .offAir) := ⟨rfl, rfl, rfl⟩
  unfold State.applyClearLockout
  simp only
  split
  · exact h.trans (State.airFrame_enterWarmUp _).runFrame
  · exact h

theorem State.runFrame_takeLoad (s : State) (e : Entry) : s.RunFrame (s.takeLoad e) := by
  unfold State.takeLoad
  exact (State.RunFrame.trans ⟨by simp, by simp, by simp⟩ (State.airFrame_reformAll _).runFrame).trans
    (State.runFrame_afterOff _)

theorem State.runFrame_carryOut (s : State) (e : Entry) : s.RunFrame (s.carryOut e) := by
  unfold State.carryOut
  split
  · exact s.runFrame_takeSlotChange e _ _
  · exact s.runFrame_takeSlotChange e _ _
  · exact ⟨by simp, by simp, by simp⟩
  · exact ⟨by simp, by simp, by simp⟩
  · exact (s.runFrame_applyEnable _ _).trans (State.runFrame_commit _ e)
  · exact (s.runFrame_applyParams _ _ _ _ _).trans (State.runFrame_commit _ e)
  · exact (s.runFrame_applyTransmit _).trans (State.runFrame_commit _ e)
  · exact s.runFrame_takeLoad e
  · exact s.runFrame_applyClearLockout.trans (State.runFrame_commit _ e)

theorem State.runFrame_takeEntry (s : State) (e : Entry) : s.RunFrame (s.takeEntry e) := by
  unfold State.takeEntry
  split
  · exact ⟨rfl, rfl, rfl⟩
  · split
    · exact ⟨rfl, rfl, rfl⟩
    · exact s.runFrame_carryOut _

theorem State.runFrame_takeKind (s : State) (kind : ChangeKind) : s.RunFrame (s.takeKind kind) := by
  unfold State.takeKind
  split
  · split
    · exact (State.runFrame_takeEntry _ _).before (s := s) rfl rfl rfl
    · exact .refl s
  · exact .refl s

/-! ## Preset reads -/

/-- The latches that a load sets for the slots that lose their source. -/
def State.latchHeld (s t : State) : State :=
  slotIndices.foldl (fun u k => if (s.slot k).hasSource then u.latchSource k else u) t

theorem State.feedFrame_latchHeld (s t : State) : t.FeedFrame (s.latchHeld t) :=
  State.feedFrame_sweep (fun u k => if (s.slot k).hasSource then u.latchSource k else u) (fun u k => by
    split
    · exact u.feedFrame_latchSource k
    · exact .refl u) slotIndices t

theorem State.loadImage_eq (s : State) (img : PlanImage) :
    s.loadImage img =
      ((s.latchHeld { (s.mapSlots fun k x => x.start img.records[k.val]) with wide := img.wide, engine := .idle }).formBudget.reformAll).measureQuiet := rfl

theorem State.runFrame_loadImage (s : State) (img : PlanImage) : s.RunFrame (s.loadImage img) := by
  rw [State.loadImage_eq]
  have h := (s.feedFrame_latchHeld
    { (s.mapSlots fun k x => x.start img.records[k.val]) with wide := img.wide, engine := .idle }).runFrame
  refine ((h.trans ?_).trans (State.airFrame_measureQuiet _).runFrame).before (s := s) (by simp) (by simp) (by simp)
  exact (State.airFrame_reformAll _).runFrame.before rfl rfl rfl

theorem State.runFrame_endBoot (s : State) (r : BootResult) : s.RunFrame (s.endBoot r) := by
  unfold State.endBoot
  exact (State.runFrame_txEnableWritten _ _).before (s := s) rfl rfl rfl

theorem State.runFrame_completeLoad (s : State) (e : Entry) (img : PlanImage) : s.RunFrame (s.completeLoad e img) :=
  ((s.runFrame_loadImage img).trans (State.runFrame_commit _ e)).trans (State.runFrame_txEnableWritten _ _)

theorem State.runFrame_completeBoot (s : State) (img : PlanImage) : s.RunFrame (s.completeBoot img) :=
  (s.runFrame_loadImage img).trans
    ((State.runFrame_endBoot { (s.loadImage img) with generation := s.generation + 1 } _).before (s := s.loadImage img) rfl rfl rfl)

end Sys2Proof.Machine
end

