-- ==== Sys2Proof/Laws/Ports.lean ====
section
/-! SUPPORT. What the control ports' operations can do: the frame that a queued command keeps, its one response, and the bounds of
the queues. -/

namespace Sys2Proof.Machine

/-! ## The frame of the ports' operations -/

/-- What the operations of the ports leave alone: every field but the Change Queue, the store's operation and toggles, and the
ports. -/
structure State.DeskFrame (s t : State) : Prop where
  pending : t.pending = s.pending
  wide : t.wide = s.wide
  generation : t.generation = s.generation
  slots : t.slots = s.slots
  engine : t.engine = s.engine
  feeds : t.feeds = s.feeds
  monitorIn : t.monitorIn = s.monitorIn
  bEff : t.bEff = s.bEff
  out : t.out = s.out
  protHi : t.protHi = s.protHi
  protLo : t.protLo = s.protLo
  resetHeld : t.resetHeld = s.resetHeld
  now : t.now = s.now
  fresh : t.fresh = s.fresh
  presets : t.store.presets = s.store.presets
  boot : t.store.boot = s.store.boot

namespace State.DeskFrame

theorem refl (s : State) : s.DeskFrame s := by constructor <;> rfl

theorem trans {s t u : State} (h : s.DeskFrame t) (g : t.DeskFrame u) : s.DeskFrame u where
  pending := g.pending.trans h.pending
  wide := g.wide.trans h.wide
  generation := g.generation.trans h.generation
  slots := g.slots.trans h.slots
  engine := g.engine.trans h.engine
  feeds := g.feeds.trans h.feeds
  monitorIn := g.monitorIn.trans h.monitorIn
  bEff := g.bEff.trans h.bEff
  out := g.out.trans h.out
  protHi := g.protHi.trans h.protHi
  protLo := g.protLo.trans h.protLo
  resetHeld := g.resetHeld.trans h.resetHeld
  now := g.now.trans h.now
  fresh := g.fresh.trans h.fresh
  presets := g.presets.trans h.presets
  boot := g.boot.trans h.boot

theorem runFrame {s t : State} (h : s.DeskFrame t) : s.RunFrame t := ⟨h.pending, h.now, h.fresh⟩

theorem slot {s t : State} (h : s.DeskFrame t) (k : SlotIx) : t.slot k = s.slot k := State.slot_congr h.slots k

theorem preset {s t : State} (h : s.DeskFrame t) (n : PresetIx) : t.store.preset n = s.store.preset n := by
  simp only [Store.preset, h.presets]

end State.DeskFrame

theorem State.deskFrame_modPort (s : State) (p : Port) (f : PortState → PortState) : s.DeskFrame (s.modPort p f) := by
  constructor <;> rfl

theorem State.deskFrame_latch (s : State) (p : Port) (c : Cause) : s.DeskFrame (s.latch p c) := by constructor <;> rfl

theorem State.deskFrame_placeOutcome (s : State) (p : Port) (r : OutcomeRecord) : s.DeskFrame (s.placeOutcome p r) := by
  constructor <;> rfl

theorem State.deskFrame_submit (s : State) (p : Port) (w : List Byte) : s.DeskFrame (s.submit p w).2 := by
  unfold State.submit
  split
  · constructor <;> rfl
  · split <;> constructor <;> rfl

theorem State.deskFrame_doReadStore (s : State) (p : Port) : s.DeskFrame (s.doReadStore p).2 := by
  have h : (s.store.touch p).presets = s.store.presets ∧ (s.store.touch p).boot = s.store.boot := by
    unfold Store.touch; split <;> exact ⟨rfl, rfl⟩
  constructor
  case presets => exact h.1
  case boot => exact h.2
  all_goals rfl

theorem State.deskFrame_storeCommand (s : State) (p : Port) (op : PortOp) : s.DeskFrame (s.storeCommand p op).2 := by
  unfold State.storeCommand
  split
  · constructor <;> rfl
  · exact .refl s

theorem State.deskFrame_doSetPeer (s : State) (p : Port) (w : List Byte) : s.DeskFrame (s.doSetPeer p w).2 := by
  unfold State.doSetPeer
  simp only
  split
  · exact s.deskFrame_modPort p _
  · exact (s.deskFrame_modPort p _).trans (State.deskFrame_latch _ _ _)

/-- A queued command at its execution, its frame and what it does not do to the queues (R151). -/
theorem State.deskFrame_act (s : State) (p : Port) (c : Command) (w : List Byte) : s.DeskFrame (s.act p c w).2 := by
  unfold State.act
  split
  · exact s.deskFrame_submit p w
  · unfold State.doReadSlot; split <;> exact .refl s
  · exact .refl s
  · exact .refl s
  · exact .refl s
  · exact .refl s
  · exact s.deskFrame_modPort p _
  · exact s.deskFrame_doReadStore p
  · exact s.deskFrame_modPort p fun q => q.writeMask (word16At w 0)
  · exact s.deskFrame_doSetPeer p w
  · exact s.deskFrame_modPort p fun q => q.writeSilence (byteAt w 0).toNat
  · unfold State.doScanRange
    split
    · dsimp only; exact s.deskFrame_modPort p _
    · exact .refl s
  · exact s.deskFrame_modPort p _
  · unfold State.doSave
    split
    · exact s.deskFrame_storeCommand p _
    · exact .refl s
  · unfold State.doErase
    split
    · exact s.deskFrame_storeCommand p _
    · exact .refl s
  · unfold State.doSetBoot
    split
    · exact s.deskFrame_storeCommand p _
    · exact .refl s
  · exact .refl s
  · exact .refl s
  · exact .refl s
  · exact .refl s
  · exact .refl s

/-- The two queues and the outcome list of a port, which no execution moves but for the response that it appends. -/
structure PortState.SameQueues (q r : PortState) : Prop where
  cmdQueue : r.cmdQueue = q.cmdQueue
  rspQueue : r.rspQueue = q.rspQueue
  outcomes : r.outcomes = q.outcomes

theorem PortState.SameQueues.refl (q : PortState) : q.SameQueues q := ⟨rfl, rfl, rfl⟩

theorem PortState.SameQueues.trans {q r u : PortState} (h : q.SameQueues r) (g : r.SameQueues u) : q.SameQueues u :=
  ⟨g.1.trans h.1, g.2.trans h.2, g.3.trans h.3⟩

theorem State.sameQueues_modPort (s : State) (p i : Port) (f : PortState → PortState) (h : (s.port p).SameQueues (f (s.port p))) :
    (s.port i).SameQueues ((s.modPort p f).port i) := by
  rw [State.port_modPort]
  split
  · rename_i hi; subst hi; exact h
  · exact .refl _

theorem PortState.clearHighest_sameQueues (q : PortState) : q.SameQueues q.clearHighest := by
  unfold PortState.clearHighest
  split <;> exact ⟨rfl, rfl, rfl⟩

theorem State.sameQueues_storeCommand (s : State) (p i : Port) (op : PortOp) :
    (s.port i).SameQueues ((s.storeCommand p op).2.port i) := by
  unfold State.storeCommand
  split <;> exact .refl _

/-- An execution moves no queue and no outcome list: its response comes after it (R151). -/
theorem State.sameQueues_act (s : State) (p i : Port) (c : Command) (w : List Byte) :
    (s.port i).SameQueues ((s.act p c w).2.port i) := by
  unfold State.act
  split
  · unfold State.submit
    split
    · exact .refl _
    · split <;> exact .refl _
  · unfold State.doReadSlot; split <;> exact .refl _
  · exact .refl _
  · exact .refl _
  · exact .refl _
  · exact .refl _
  · exact s.sameQueues_modPort p i _ (PortState.clearHighest_sameQueues _)
  · exact .refl _
  · exact s.sameQueues_modPort p i _ ⟨rfl, rfl, rfl⟩
  · unfold State.doSetPeer
    simp only
    split
    · exact s.sameQueues_modPort p i _ ⟨rfl, rfl, rfl⟩
    · exact (s.sameQueues_modPort p i _ ⟨rfl, rfl, rfl⟩).trans (State.sameQueues_modPort _ _ _ _ ⟨rfl, rfl, rfl⟩)
  · exact s.sameQueues_modPort p i _ ⟨rfl, rfl, rfl⟩
  · unfold State.doScanRange
    split
    · exact s.sameQueues_modPort p i _ ⟨rfl, rfl, rfl⟩
    · exact .refl _
  · exact s.sameQueues_modPort p i _ ⟨rfl, rfl, rfl⟩
  · unfold State.doSave
    split
    · exact s.sameQueues_storeCommand p i _
    · exact .refl _
  · unfold State.doErase
    split
    · exact s.sameQueues_storeCommand p i _
    · exact .refl _
  · unfold State.doSetBoot
    split
    · exact s.sameQueues_storeCommand p i _
    · exact .refl _
  · exact .refl _
  · exact .refl _
  · exact .refl _
  · exact .refl _
  · exact .refl _

theorem State.deskFrame_perform (s : State) (p : Port) (f : Frame) : s.DeskFrame (s.perform p f).2 := by
  unfold State.perform
  split
  · exact .refl s
  · split
    · exact s.deskFrame_act p _ _
    · exact .refl s

theorem State.sameQueues_perform (s : State) (p i : Port) (f : Frame) : (s.port i).SameQueues ((s.perform p f).2.port i) := by
  unfold State.perform
  split
  · exact .refl _
  · split
    · exact s.sameQueues_act p i _ _
    · exact .refl _

/-- An execution is what its command does, and then its one response (R151). -/
theorem State.executeFrame_eq (s : State) (p : Port) (f : Frame) :
    s.executeFrame p f = (s.perform p f).2.answered p (s.perform p f).1.1 f.code (s.perform p f).1.2 := rfl

theorem State.deskFrame_outcomes {g : State → Entry → State} (h : ∀ (s : State) (e : Entry), s.DeskFrame (g s e)) :
    ∀ (l : List Entry) (s : State), s.DeskFrame (l.foldl g s)
  | [], s => .refl s
  | e :: l, s => (h s e).trans (State.deskFrame_outcomes h l (g s e))

theorem State.deskFrame_purge (s : State) (p : Port) : s.DeskFrame (s.purge p) := by
  unfold State.purge
  refine State.DeskFrame.trans (t := { s with
    changes := { s.changes with entries := s.changes.entries.filter fun e => e.origin != p } }) ?_
    (State.deskFrame_outcomes (fun s e => s.deskFrame_placeOutcome p _) _ _)
  constructor <;> rfl

/-- What the commands of the ports come down to: writes of a port, executions, purges, one after the other. -/
inductive State.DeskMove : State → State → Prop where
  | refl (s : State) : s.DeskMove s
  | port (s : State) (p : Port) (f : PortState → PortState) : s.DeskMove (s.modPort p f)
  | act (s : State) (p : Port) (c : Command) (w : List Byte) : s.DeskMove (s.act p c w).2
  | purge (s : State) (p : Port) : s.DeskMove (s.purge p)
  | trans {s t u : State} (h : s.DeskMove t) (g : t.DeskMove u) : s.DeskMove u

/-- A property that writes of a port, executions and purges keep is kept by every such move. -/
theorem State.DeskMove.keeps {P : State → Prop} (port : ∀ s p f, P s → P (s.modPort p f))
    (act : ∀ s p c w, P s → P (s.act p c w).2) (purge : ∀ s p, P s → P (s.purge p)) {s t : State} (h : s.DeskMove t) (hs : P s) :
    P t := by
  induction h with
  | refl s => exact hs
  | port s p f => exact port s p f hs
  | act s p c w => exact act s p c w hs
  | purge s p => exact purge s p hs
  | trans _ _ ih ig => exact ig (ih hs)

theorem State.deskMove_latch (s : State) (p : Port) (c : Cause) : s.DeskMove (s.latch p c) := .port s p _

theorem State.deskMove_perform (s : State) (p : Port) (f : Frame) : s.DeskMove (s.perform p f).2 := by
  unfold State.perform
  split
  · exact .refl s
  · split
    · exact .act s p _ _
    · exact .refl s

theorem State.deskMove_executeFrame (s : State) (p : Port) (f : Frame) : s.DeskMove (s.executeFrame p f) :=
  (s.deskMove_perform p f).trans (State.DeskMove.port (s.perform p f).2 p fun q =>
    { q with rspQueue := q.rspQueue ++ [⟨(s.perform p f).1.1, f.code, (s.perform p f).1.2⟩] })

theorem State.deskMove_runCommands (p : Port) : ∀ (l : List Frame) (s : State), s.DeskMove (State.runCommands p l s)
  | [], s => State.DeskMove.port s p _
  | f :: l, s => by
    unfold State.runCommands
    split
    · exact (s.deskMove_executeFrame p f).trans (State.deskMove_runCommands p l _)
    · exact State.DeskMove.port s p _

theorem State.deskMove_runPort (s : State) (p : Port) : s.DeskMove (s.runPort p) := State.deskMove_runCommands p _ s

theorem State.deskMove_deliver (s : State) (p : Port) (f : Frame) : s.DeskMove (s.deliver p f) :=
  (State.DeskMove.port s p _).trans (State.deskMove_runPort _ p)

theorem State.deskMove_submissions (s : State) (sub : Submission) : s.DeskMove (s.submissions sub) := by
  unfold State.submissions
  split
  · exact s.deskMove_deliver _ _
  · split <;> exact (s.deskMove_deliver _ _).trans (State.deskMove_deliver _ _ _)

theorem State.deskMove_startPeriod (s : State) (p : Port) : s.DeskMove (s.startPeriod p) := by
  unfold State.startPeriod
  simp only
  split
  · exact (State.DeskMove.port s p _).trans (State.deskMove_latch _ _ _)
  · exact State.DeskMove.port s p _

theorem State.deskMove_endPeriod (s : State) (p : Port) (o : Outgoing) (w : List Byte) : s.DeskMove (s.endPeriod p o w) := by
  unfold State.endPeriod
  simp only
  split
  · exact ((State.DeskMove.port s p _).trans (State.deskMove_runPort _ p)).trans (State.DeskMove.port _ p _)
  · exact (((State.DeskMove.port s p _).trans (State.deskMove_runPort _ p)).trans (State.deskMove_deliver _ p _)).trans
      (State.DeskMove.port _ p _)

theorem State.deskMove_endPeriodOf (s : State) (p : Port) (w : List Byte) : s.DeskMove (s.endPeriodOf p w) := by
  unfold State.endPeriodOf
  split
  · exact s.deskMove_endPeriod p _ w
  · exact .refl s

theorem State.deskMove_clearPort (s : State) (p : Port) (sel : ClearSelector) : s.DeskMove (s.clearPort p sel) :=
  (State.DeskMove.port s p _).trans (State.deskMove_runPort _ p)

theorem State.deskMove_takePurge (s : State) (p : Port) : s.DeskMove (s.takePurge p) := by
  unfold State.takePurge
  split
  · exact (State.DeskMove.port s p _).trans (.purge _ p)
  · exact .refl s

theorem State.deskMove_takeClear (s : State) (p : Port) : s.DeskMove (s.takeClear p) := by
  unfold State.takeClear
  split
  · exact (State.DeskMove.port s p _).trans (State.deskMove_clearPort _ p _)
  · exact .refl s

/-- What a move of the ports leaves alone. -/
theorem State.DeskMove.frame {s t : State} (h : s.DeskMove t) : s.DeskFrame t := by
  induction h with
  | refl s => exact .refl s
  | port s p f => exact s.deskFrame_modPort p f
  | act s p c w => exact s.deskFrame_act p c w
  | purge s p => exact s.deskFrame_purge p
  | trans _ _ ih ig => exact ih.trans ig

/-! ## One command at a port that answers at once -/

/-- A port with other command frames waiting. -/
def PortState.waiting (q : PortState) (l : List Frame) : PortState := { q with cmdQueue := l }

theorem State.modPort_comm (s : State) (p : Port) (f g : PortState → PortState) (h : ∀ q, f (g q) = g (f q)) :
    (s.modPort p f).modPort p g = (s.modPort p g).modPort p f := by
  rw [State.modPort_modPort_self, State.modPort_modPort_self]
  simp only [h]

theorem State.modPort_latch_other (s : State) (p : Port) (c : Cause) (f : PortState → PortState) :
    (s.modPort p f).latch (otherPort p) c = (s.latch (otherPort p) c).modPort p f := by cases p <;> rfl

/-- What every answer of the store comes to (R136). -/
theorem State.storeCommand_eq (s : State) (p : Port) (op : PortOp) :
    s.storeCommand p op =
      if op.inUse s.engine then (.presetInUse, s)
      else if s.store.activity = .idle ∧ s.resetHeld = false then
        (.ok, { s with store := s.store.begin (op.firstPhase s.planImage p).1 (op.firstPhase s.planImage p).2 })
      else (.storeBusy, s) := by
  unfold State.storeCommand State.storeAnswer
  by_cases h : op.inUse s.engine = true
  · simp only [if_pos h]
  · by_cases hi : s.store.activity = .idle ∧ s.resetHeld = false
    · simp only [if_neg h, if_pos hi]
    · simp only [if_neg h, if_neg hi]

theorem State.storeCommand_waiting (s : State) (p : Port) (op : PortOp) (l : List Frame) :
    (s.modPort p fun q => q.waiting l).storeCommand p op =
      ((s.storeCommand p op).1, (s.storeCommand p op).2.modPort p fun q => q.waiting l) := by
  have he : (s.modPort p fun q => q.waiting l).engine = s.engine := rfl
  have hs : ((s.modPort p fun q => q.waiting l).store.activity = .idle ∧ (s.modPort p fun q => q.waiting l).resetHeld = false) ↔
      s.store.activity = .idle ∧ s.resetHeld = false := Iff.rfl
  rw [State.storeCommand_eq, State.storeCommand_eq, he]
  by_cases h : op.inUse s.engine = true
  · rw [if_pos h, if_pos h]
  · rw [if_neg h, if_neg h]
    by_cases hi : s.store.activity = .idle ∧ s.resetHeld = false
    · rw [if_pos (hs.mpr hi), if_pos hi]; rfl
    · rw [if_neg (mt hs.mp hi), if_neg hi]

/-- What a command does at its execution does not depend on the frames that wait behind it. -/
theorem State.act_waiting (s : State) (p : Port) (c : Command) (w : List Byte) (l : List Frame) :
    (s.modPort p fun q => q.waiting l).act p c w =
      ((s.act p c w).1, (s.act p c w).2.modPort p fun q => q.waiting l) := by
  have hl : ∀ f : PortState → PortState, (∀ q, f (q.waiting l) = (f q).waiting l) →
      (s.modPort p fun q => q.waiting l).modPort p f = (s.modPort p f).modPort p fun q => q.waiting l := fun f h =>
    s.modPort_comm p _ _ fun q => (h q).symm
  cases c
  case submitChange =>
    simp only [State.act, State.submit]
    split
    · rfl
    · simp only [State.modPort_changes]
      by_cases h8 : 8 ≤ s.changes.entries.length
      · simp only [h8, reduceIte]; rfl
      · simp only [h8, reduceIte]; rfl
  case readSlot => simp only [State.act, State.doReadSlot]; split <;> rfl
  case readPlan => rfl
  case readTransmitter => rfl
  case readFeeds => rfl
  case readOutcomes => simp only [State.act, State.port_modPort_self]; rfl
  case readEvents =>
    simp only [State.act, State.doReadEvents, State.port_modPort_self]
    rw [hl PortState.clearHighest fun q => ?_]
    · rfl
    · unfold PortState.clearHighest
      rw [show (q.waiting l).highest = q.highest from rfl]
      split <;> rfl
  case readStore => rfl
  case setEventMask => simp only [State.act, State.doSetMask]; rw [hl (fun q => q.writeMask _) fun q => rfl]
  case setPeerFlags =>
    simp only [State.act, State.doSetPeer, State.port_modPort_self]
    rw [hl _ fun q => rfl]
    have hc : ((s.port p).waiting l).peer0 = (s.port p).peer0 ∧ ((s.port p).waiting l).peer1 = (s.port p).peer1 := ⟨rfl, rfl⟩
    rw [hc.1, hc.2]
    by_cases hp : (s.port p).peer0 = (byteAt w 0).getLsbD 0 ∧ (s.port p).peer1 = (byteAt w 0).getLsbD 1
    · rw [if_pos hp, if_pos hp]
    · rw [if_neg hp, if_neg hp, State.modPort_latch_other]
  case setSilence => simp only [State.act, State.doSetSilence]; rw [hl (fun q => q.writeSilence _) fun q => rfl]
  case scanRange =>
    simp only [State.act, State.doScanRange]
    split
    · rw [hl _ fun q => rfl]
    · rfl
  case scanNext =>
    simp only [State.act, State.doScanNext, State.port_modPort_self]
    rw [hl PortState.advanceScan fun q => rfl]
    rfl
  case savePreset =>
    simp only [State.act, State.doSave]
    split
    · simp only [State.doStore, State.storeCommand_waiting]
    · rfl
  case erasePreset =>
    simp only [State.act, State.doErase]
    split
    · simp only [State.doStore, State.storeCommand_waiting]
    · rfl
  case setBoot =>
    simp only [State.act, State.doSetBoot]
    split
    · simp only [State.doStore, State.storeCommand_waiting]
    · rfl
  all_goals rfl

theorem State.perform_waiting (s : State) (p : Port) (f : Frame) (l : List Frame) :
    (s.modPort p fun q => q.waiting l).perform p f =
      ((s.perform p f).1, (s.perform p f).2.modPort p fun q => q.waiting l) := by
  unfold State.perform
  split
  · rfl
  · split
    · exact s.act_waiting p _ _ l
    · rfl

/-- A frame of a queued command that meets an empty command queue and a response queue with room is executed at once: what it does,
then its one response (R149, R151). -/
theorem State.deliver_ready {s : State} {p : Port} (h : s.Ready p) {f : Frame} (hc : f.code ≠ 0) (hu : urgentOfFrame f = none) :
    s.deliver p f = (s.perform p f).2.answered p (s.perform p f).1.1 f.code (s.perform p f).1.2 := by
  obtain ⟨he, hr⟩ := h
  have hq : (s.modPort p fun q => q.classify f) = s.modPort p fun q => q.waiting [f] := by
    have : (s.port p).classify f = (s.port p).waiting [f] := by
      simp only [PortState.classify, if_neg hc, hu, PortState.enqueue, he, List.length_nil]
      rfl
    simp only [State.modPort, State.ports_at, this]
  have hw : ((s.perform p f).2.modPort p fun q => q.waiting []) = (s.perform p f).2 := by
    apply State.modPort_of_eq
    have := (s.sameQueues_perform p p f).cmdQueue
    rw [he] at this
    unfold PortState.waiting
    rw [← this]
  unfold State.deliver State.runPort
  rw [hq]
  simp only [State.port_modPort_self]
  unfold PortState.waiting at *
  simp only [State.runCommands]
  rw [if_pos (by simpa using hr), State.executeFrame_eq, show (fun q : PortState => { q with cmdQueue := [f] }) = fun q => q.waiting [f] from rfl,
    State.perform_waiting]
  simp only
  unfold State.answered
  rw [State.modPort_modPort_self, State.modPort_modPort_self]
  conv_rhs => rw [← hw, State.modPort_modPort_self]
  rfl

end Sys2Proof.Machine
end

