-- ==== Sys2Proof/Laws/Step.lean ====
section
/-! SUPPORT. What one command and one step can be: every command goes on, what no command moves, and the cases that a property of
every step comes down to. -/

namespace Sys2Proof.Machine

/-- What the commands come down to: a property of a state and the state after a command holds for every command where it holds for
each of these. -/
theorem exec_cases {P : State → State → Prop} (same : ∀ s, P s s) (desk : ∀ s t, s.DeskMove t → P s t)
    (reset : ∀ s, P s s.deviceReset)
    (endOfReset : ∀ s hi lo, s.resetHeld = true → P s (s.endOfReset hi lo))
    (sound : ∀ s f, P s (s.soundMarker f)) (lost : ∀ s f, P s (s.lostMarker f)) (monitor : ∀ s v, P s (s.monitor v))
    (holdOff : ∀ s k, (s.slot k).sel.holdOff.isSome = true → P s (s.expireHoldOff k))
    (stepEvent : ∀ s k, (s.slot k).ramp.timer.isSome = true → P s (s.rampStepEvent k))
    (lines : ∀ s hi lo, P s (s.setLines hi lo))
    (level : ∀ s hi lo, s.resetHeld = false → protectionOf hi lo ≠ s.out.level →
      P s ((s.setLines hi lo).changeLevel (protectionOf hi lo)))
    (warmUp : ∀ s, s.out.state = .warmUp → P s s.enterOnAir) (quiet : ∀ s, s.out.quiet.isSome = true → P s s.quietExpired)
    (departure : ∀ s, P s { s with out := { s.out with trips := s.out.trips.tail } })
    (taking : ∀ s kind, P s (s.takeKind kind))
    (endErasing : ∀ s, P s s.endErasing) (endProgramming : ∀ s v, P s (s.endProgramming v)) (endErase : ∀ s, P s s.endErase)
    (endBootWrite : ∀ s, P s s.endBootWrite) (endRead : ∀ s, P s s.endRead)
    (hold : ∀ s p v, P s ((s.releaseUrgent p).setHold p v)) (silence : ∀ s p, P s (s.silence p))
    {c : Instr} {s t : State} (h : exec c s = .next t) : P s t := by
  cases c <;> replace h := Host.Outcome.next.inj h <;> subst h
  case deviceReset => exact reset s
  case endOfReset hi lo =>
    split
    · exact endOfReset s hi lo ‹_›
    · exact same s
  case goodMarker f => exact sound s f
  case badMarker f => exact lost s f
  case missingMarker f => exact lost s f
  case monitorInterval v => exact monitor s v
  case holdOffExpiry k =>
    split
    · exact holdOff s k ‹_›
    · exact same s
  case stepEvent k =>
    split
    · exact stepEvent s k ‹_›
    · exact same s
  case protectionLevelChange hi lo =>
    split
    · exact lines s hi lo
    · rename_i hn
      simp only [Bool.or_eq_true, not_or, beq_iff_eq, Bool.not_eq_true] at hn
      exact level s hi lo hn.1 hn.2
  case warmUpExpiry =>
    split
    · exact warmUp s (by simp_all)
    · exact same s
  case quietExpiry =>
    split
    · exact quiet s ‹_›
    · exact same s
  case tripHistoryDeparture => exact departure s
  case assignSlot => exact taking s _
  case releaseSlot => exact taking s _
  case setPower => exact taking s _
  case setThresholds => exact taking s _
  case setSlotEnable => exact taking s _
  case setPlanParams => exact taking s _
  case setTransmit => exact taking s _
  case loadPreset => exact taking s _
  case clearLockout => exact taking s _
  case selectPeriodStart p =>
    split
    · exact same s
    · exact desk s _ (s.deskMove_startPeriod p)
  case selectPeriodEnd p w => exact desk s _ (s.deskMove_endPeriodOf p w)
  case submitChange sub => exact desk s _ (s.deskMove_submissions sub)
  case endOfErasing => exact endErasing s
  case endOfProgramming v => exact endProgramming s v
  case eraseCompletion => exact endErase s
  case bootSelectorWriteCompletion => exact endBootWrite s
  case readCompletion => exact endRead s
  case holdOutput p =>
    unfold State.takeHold
    split
    · exact hold s p true
    · exact same s
  case releaseOutput p =>
    unfold State.takeRelease
    split
    · exact hold s p false
    · exact same s
  case purgeChanges p => exact desk s _ (s.deskMove_takePurge p)
  case portClear p => exact desk s _ (s.deskMove_takeClear p)
  case silenceExpiry p =>
    split
    · exact silence s p
    · exact same s
  all_goals exact desk s _ (s.deskMove_deliver _ _)

/-! ## The frame of every command -/

theorem State.airFrame_setHold_base (s : State) (p : Port) (v : Bool) : s.RunFrame (s.setHold p v) := by
  unfold State.setHold
  simp only
  split
  · exact ⟨rfl, rfl, rfl⟩
  · exact ((State.airFrame_reformAll _).trans (State.airFrame_formQuiet _)).runFrame.before (s := s) rfl rfl rfl

theorem State.runFrame_moveReceiver (s : State) (f : Feed) (r : Receiver) : s.RunFrame (s.moveReceiver f r) := by
  have h : s.RunFrame (s.putReceiver f r) := by cases f <;> exact ⟨rfl, rfl, rfl⟩
  unfold State.moveReceiver
  simp only
  split
  · exact h
  · exact h.trans ⟨rfl, rfl, rfl⟩

theorem State.feedFrame_unlockSweep (s : State) (f : Feed) : s.FeedFrame (slotIndices.foldl (fun u k => u.unlockSlot f k) s) :=
  State.feedFrame_sweep (fun u k => u.unlockSlot f k) (fun u k => u.feedFrame_unlockSlot f k) slotIndices s

theorem State.feedFrame_measureSweep (s : State) (v : Levels) :
    s.FeedFrame (slotIndices.foldl (fun u k => u.measureSlot k v[k.val]) s) :=
  State.feedFrame_sweep (fun u k => u.measureSlot k v[k.val]) (fun u k => u.feedFrame_measureSlot k _) slotIndices s

theorem State.runFrame_lostMarker (s : State) (f : Feed) : s.RunFrame (s.lostMarker f) := by
  unfold State.lostMarker
  simp only
  split
  · exact s.runFrame_moveReceiver f _
  · exact (s.runFrame_moveReceiver f _).trans (State.feedFrame_unlockSweep _ f).runFrame

theorem State.runFrame_monitor (s : State) (v : Levels) : s.RunFrame (s.monitor v) :=
  (State.feedFrame_measureSweep { s with monitorIn := 10 } v).runFrame.before (s := s) rfl rfl rfl

theorem State.runFrame_expireHoldOff (s : State) (k : SlotIx) : s.RunFrame (s.expireHoldOff k) := by
  unfold State.expireHoldOff
  simp only
  split
  · exact (s.feedFrame_applySelection k _).runFrame
  · exact ⟨rfl, rfl, rfl⟩

theorem State.runFrame_rampStepEvent (s : State) (k : SlotIx) : s.RunFrame (s.rampStepEvent k) := by
  unfold State.rampStepEvent
  simp only
  split
  · exact ((State.airFrame_govern _).runFrame.trans (State.runFrame_afterOff _)).before (s := s) rfl rfl rfl
  · exact ⟨rfl, rfl, rfl⟩

theorem State.runFrame_endRead (s : State) : s.RunFrame s.endRead := by
  unfold State.endRead
  split
  · simp only
    split
    · exact (State.runFrame_completeLoad _ _ _).before (s := s) rfl rfl rfl
    · exact (State.runFrame_completeBoot _ _).before (s := s) rfl rfl rfl
    · exact .refl s
  · exact .refl s

theorem State.runFrame_endOfReset (s : State) (hi lo : Bool) : s.RunFrame (s.endOfReset hi lo) := by
  have h : s.RunFrame (({ s.setLines hi lo with
      resetHeld := false
      monitorIn := 10
      out := { s.out with level := protectionOf hi lo } }).formBudget.govern) := ⟨by simp, by simp, by simp⟩
  unfold State.endOfReset State.bootDecision
  split
  · exact h.trans (State.runFrame_endBoot _ _)
  · split
    · exact h.trans (State.runFrame_endBoot _ _)
    · exact h.trans (State.runFrame_endBoot _ _)
    · exact h.trans ⟨rfl, rfl, rfl⟩

theorem State.runFrame_silence (s : State) (p : Port) : s.RunFrame (s.silence p) :=
  (State.airFrame_setHold_base _ p false).before (s := s) rfl rfl rfl

/-- No command moves the queue of commands, the clock or the counter of the free values. -/
theorem runFrame_exec {c : Instr} {s t : State} (h : exec c s = .next t) : s.RunFrame t := by
  refine exec_cases (P := State.RunFrame) State.RunFrame.refl (fun _ _ h => h.frame.runFrame) (fun _ => ⟨rfl, rfl, rfl⟩)
    (fun s hi lo _ => s.runFrame_endOfReset hi lo) (fun s f => s.runFrame_moveReceiver f _) State.runFrame_lostMarker
    State.runFrame_monitor (fun s k _ => s.runFrame_expireHoldOff k) (fun s k _ => s.runFrame_rampStepEvent k)
    (fun _ _ _ => ⟨rfl, rfl, rfl⟩) (fun s hi lo _ _ => (State.runFrame_changeLevel (s.setLines hi lo) _).before (s := s) rfl rfl rfl)
    (fun s _ => s.airFrame_enterOnAir.runFrame) (fun s _ => s.airFrame_quietExpired.runFrame) (fun _ => ⟨rfl, rfl, rfl⟩)
    State.runFrame_takeKind ?_ ?_ ?_ ?_ State.runFrame_endRead
    (fun s p v => (State.airFrame_setHold_base (s.releaseUrgent p) p v).before (s := s) rfl rfl rfl) State.runFrame_silence h
  · intro s; unfold State.endErasing; split <;> exact ⟨rfl, rfl, rfl⟩
  · intro s v; unfold State.endProgramming; split <;> exact ⟨rfl, rfl, rfl⟩
  · intro s; unfold State.endErase; split <;> exact ⟨rfl, rfl, rfl⟩
  · intro s; unfold State.endBootWrite; split <;> exact ⟨rfl, rfl, rfl⟩

/-- Every command answers with a next state. -/
theorem exec_next (c : Instr) (s : State) : ∃ t, exec c s = .next t := by cases c <;> exact ⟨_, rfl⟩

/-! ## Steps -/

/-- A property that every command keeps, that the passing of a millisecond keeps, and that does not read the queue or the counter,
is kept by every step. -/
theorem step_keeps {P : State → Prop} (command : ∀ c s t, exec c s = .next t → P s → P t)
    (bookkeeping : ∀ s q n, P s → P { s with pending := q, fresh := n }) (tick : ∀ s, P s → P s.tick) {s t : State}
    (h : step s = .next t) (hs : P s) : P t := by
  unfold step at h
  split at h
  · exact command _ _ _ h (bookkeeping s _ s.fresh hs)
  · unfold idle at h
    split at h
    · exact Host.Outcome.next.inj h ▸ hs
    · split at h
      · exact command _ _ _ h (bookkeeping s s.pending _ hs)
      · rw [← Host.Outcome.next.inj h]
        exact bookkeeping s.tick s.tick.pending (s.fresh + 1) (tick s hs)

/-! ### A millisecond -/

@[simp] theorem State.tick_wide (s : State) : s.tick.wide = s.wide := by simp only [State.tick, State.mapSlots]
@[simp] theorem State.tick_generation (s : State) : s.tick.generation = s.generation := by simp only [State.tick, State.mapSlots]
@[simp] theorem State.tick_changes (s : State) : s.tick.changes = s.changes := by simp only [State.tick, State.mapSlots]
@[simp] theorem State.tick_engine (s : State) : s.tick.engine = s.engine := by simp only [State.tick, State.mapSlots]
@[simp] theorem State.tick_feeds (s : State) : s.tick.feeds = s.feeds := by simp only [State.tick, State.mapSlots]
@[simp] theorem State.tick_bEff (s : State) : s.tick.bEff = s.bEff := by simp only [State.tick, State.mapSlots]
@[simp] theorem State.tick_protHi (s : State) : s.tick.protHi = s.protHi := by simp only [State.tick, State.mapSlots]
@[simp] theorem State.tick_protLo (s : State) : s.tick.protLo = s.protLo := by simp only [State.tick, State.mapSlots]
@[simp] theorem State.tick_resetHeld (s : State) : s.tick.resetHeld = s.resetHeld := by simp only [State.tick, State.mapSlots]
@[simp] theorem State.tick_pending (s : State) : s.tick.pending = s.pending := by simp only [State.tick, State.mapSlots]
@[simp] theorem State.tick_fresh (s : State) : s.tick.fresh = s.fresh := by simp only [State.tick, State.mapSlots]
@[simp] theorem State.tick_now (s : State) : s.tick.now = s.now + 1 := by simp only [State.tick]
@[simp] theorem State.tick_monitorIn (s : State) : s.tick.monitorIn = s.monitorIn - 1 := by simp only [State.tick]
@[simp] theorem State.tick_out (s : State) :
    s.tick.out = { s.out with warmUp := countDown s.out.warmUp, quiet := countUp s.out.quiet } := by simp only [State.tick]
@[simp] theorem State.tick_store (s : State) : s.tick.store = { s.store with phaseLeft := s.store.phaseLeft - 1 } := by
  simp only [State.tick]

/-- What a millisecond moves of a slot: its two timers. -/
theorem State.slot_tick (s : State) (k : SlotIx) :
    s.tick.slot k =
      { s.slot k with
        sel := { (s.slot k).sel with holdOff := countDown (s.slot k).sel.holdOff }
        ramp := { (s.slot k).ramp with timer := countDown (s.slot k).ramp.timer } } := by
  have h : s.tick.slots = (s.mapSlots fun _ x =>
      { x with
        sel := { x.sel with holdOff := countDown x.sel.holdOff }
        ramp := { x.ramp with timer := countDown x.ramp.timer } }).slots := rfl
  rw [State.slot_congr h, State.slot_mapSlots]

/-- What a millisecond moves of a port: its silence timer. -/
theorem State.port_tick (s : State) (p : Port) :
    s.tick.port p = { s.port p with silenceTimer := countUp (s.port p).silenceTimer } := by cases p <;> rfl

end Sys2Proof.Machine
end

