-- ==== Sys2Proof/Laws/Resets.lean ====
section
/-! SUPPORT. What a device reset and its end leave, and what the store's operations leave of the presets. -/

namespace Sys2Proof.Machine

/-! ## Presets -/

theorem Store.preset_putPreset (st : Store) (n m : PresetIx) (v : Preset) :
    (st.putPreset n v).preset m = if m = n then v else st.preset m := by
  by_cases h : m = n
  · subst h; simp [Store.preset, Store.putPreset]
  · simp only [Store.preset, Store.putPreset, if_neg h]
    exact Vector.getElem_set_ne _ _ (by simpa [Fin.ext_iff, eq_comm] using h)

@[simp] theorem Store.preset_begin (st : Store) (a : Activity) (ms : Nat) (m : PresetIx) :
    (st.begin a ms).preset m = st.preset m := rfl

@[simp] theorem Store.preset_askRead (st : Store) (n m : PresetIx) : (st.askRead n).preset m = st.preset m := by
  unfold Store.askRead; split <;> rfl

@[simp] theorem Store.preset_finish (st : Store) (m : PresetIx) : st.finish.preset m = st.preset m := by
  unfold Store.finish; split <;> rfl

@[simp] theorem Store.preset_endRead (st : Store) (m : PresetIx) : st.endRead.preset m = st.preset m := rfl

/-! ## The end of a reset -/

@[simp] theorem State.slot_reset (k : SlotIx) : State.reset.slot k = Slot.rest := by
  simp [State.slot, State.reset]

@[simp] theorem State.port_reset (p : Port) : State.reset.port p = PortState.rest := by cases p <;> rfl

@[simp] theorem State.slot_deviceReset (s : State) (k : SlotIx) : s.deviceReset.slot k = Slot.rest := State.slot_reset k

@[simp] theorem State.port_deviceReset (s : State) (p : Port) : s.deviceReset.port p = PortState.rest := State.port_reset p

/-- The state at the end of a reset, before the boot is decided (R61, R101, R115). -/
def State.released (s : State) (hi lo : Bool) : State :=
  ({ s.setLines hi lo with
      resetHeld := false
      monitorIn := 10
      out := { s.out with level := protectionOf hi lo } }).formBudget.govern

theorem State.endOfReset_eq (s : State) (hi lo : Bool) : s.endOfReset hi lo = (s.released hi lo).bootDecision := rfl

@[simp] theorem State.released_resetHeld (s : State) (hi lo : Bool) : (s.released hi lo).resetHeld = false := by
  simp [State.released]

@[simp] theorem State.released_monitorIn (s : State) (hi lo : Bool) : (s.released hi lo).monitorIn = 10 := by
  simp [State.released]

@[simp] theorem State.released_out (s : State) (hi lo : Bool) :
    (s.released hi lo).out = { s.out with level := protectionOf hi lo } := by
  simp [State.released]

@[simp] theorem State.released_bEff (s : State) (hi lo : Bool) :
    (s.released hi lo).bEff = effectiveBudget s.wide.budget (protectionOf hi lo) := by
  simp [State.released, State.formBudget]

@[simp] theorem State.released_wide (s : State) (hi lo : Bool) : (s.released hi lo).wide = s.wide := by
  simp [State.released]

@[simp] theorem State.released_store (s : State) (hi lo : Bool) : (s.released hi lo).store = s.store := by
  simp [State.released]

@[simp] theorem State.released_engine (s : State) (hi lo : Bool) : (s.released hi lo).engine = s.engine := by
  simp [State.released]

@[simp] theorem State.released_generation (s : State) (hi lo : Bool) : (s.released hi lo).generation = s.generation := by
  simp [State.released]

@[simp] theorem State.released_changes (s : State) (hi lo : Bool) : (s.released hi lo).changes = s.changes := by
  simp [State.released]

@[simp] theorem State.released_lines (s : State) (hi lo : Bool) :
    (s.released hi lo).protHi = hi ∧ (s.released hi lo).protLo = lo := by
  simp [State.released, State.setLines]

@[simp] theorem State.port_released (s : State) (hi lo : Bool) (p : Port) : (s.released hi lo).port p = s.port p := by
  simp [State.released]

@[simp] theorem State.released_slot_record (s : State) (hi lo : Bool) (k : SlotIx) :
    ((s.released hi lo).slot k).record = (s.slot k).record := by
  simp [State.released]

@[simp] theorem State.released_slot_ramp (s : State) (hi lo : Bool) (k : SlotIx) :
    ((s.released hi lo).slot k).ramp = (s.slot k).ramp := by
  simp [State.released]

/-- A boot that ends before tx_enable is written leaves the transmitter (R145). -/
theorem State.endBoot_of_txEnable {s : State} (h : s.wide.txEnable = false) (r : BootResult) :
    s.endBoot r = ({ s with engine := .idle, store := { s.store with bootResult := r } }).latchBoth .boot := by
  unfold State.endBoot State.txEnableWritten
  rw [if_pos]
  exact h

/-- Table 8.5.1, case by case. -/
theorem State.bootDecision_cases (s : State) :
    (s.store.boot = none ∧ s.bootDecision = s.endBoot .none) ∨
      (∃ n, s.store.boot = some n ∧ s.store.preset n = .empty ∧ s.bootDecision = s.endBoot .empty) ∨
      (∃ n, s.store.boot = some n ∧ s.store.preset n = .corrupt ∧ s.bootDecision = s.endBoot .corrupt) ∨
      (∃ n img, s.store.boot = some n ∧ s.store.preset n = .valid img ∧
        s.bootDecision = { s with store := s.store.askRead n }) := by
  unfold State.bootDecision
  cases hb : s.store.boot with
  | none => exact .inl ⟨rfl, rfl⟩
  | some n =>
    cases hp : s.store.preset n with
    | empty => exact .inr (.inl ⟨n, rfl, hp, by simp only [hp]⟩)
    | corrupt => exact .inr (.inr (.inl ⟨n, rfl, hp, by simp only [hp]⟩))
    | valid img => exact .inr (.inr (.inr ⟨n, img, rfl, hp, by simp only [hp]⟩))

end Sys2Proof.Machine
end

