-- ==== Sys2Proof/Laws/Loads.lean ====
section
/-! SUPPORT. What the completion of a preset read leaves, and the quiet timer away from the air. -/

namespace Sys2Proof.Machine

/-- Away from ON_AIR the quiet timer is stopped, and nothing expires (R122). -/
theorem State.measureQuiet_of_not_onAir {s : State} (h : s.out.state ≠ .onAir) : s.measureQuiet = s.formQuiet := by
  have hq : s.formQuiet.out.quiet = none := by
    have : s.quietCondition = false := by
      simp [State.quietCondition, h]
    simp [this]
  unfold State.measureQuiet
  split
  · rename_i heq; rw [hq] at heq; cases heq
  · rfl

/-- The state that a loaded image is written into, every slot afresh (R49). -/
def State.imaged (s : State) (img : PlanImage) : State :=
  { (s.mapSlots fun k x => x.start img.records[k.val]) with wide := img.wide, engine := .idle }

theorem State.slot_imaged (s : State) (img : PlanImage) (k : SlotIx) :
    (s.imaged img).slot k = (s.slot k).start img.records[k.val] := by
  have h : (s.imaged img).slots = (s.mapSlots fun k x => x.start img.records[k.val]).slots := by
    simp only [State.imaged]
  rw [State.slot_congr h, State.slot_mapSlots]

/-- What a load does beside writing the image: latches, the effective budget, ramps, grants and shares, and the quiet timer. -/
theorem State.loadImage_frame (s : State) (img : PlanImage) :
    ∃ u, (s.imaged img).FeedFrame u ∧ (∀ k, ((s.imaged img).slot k) = u.slot k) ∧ u.out = s.out ∧
      u.formBudget.AirFrame (s.loadImage img) ∧ s.loadImage img = u.formBudget.reformAll.measureQuiet ∧
      (∀ k, (s.slot k).hasSource = true → ∀ p,
        (u.port p).latched .source = true ∧ (u.port p).changed.getLsbD k.val = true) := by
  refine ⟨s.latchHeld (s.imaged img), s.feedFrame_latchHeld _, ?_, ?_, ?_, rfl, ?_⟩
  · intro k
    have : ∀ (l : List SlotIx) (t : State),
        (l.foldl (fun u k => if (s.slot k).hasSource then u.latchSource k else u) t).slot k = t.slot k := by
      intro l
      induction l with
      | nil => intro t; rfl
      | cons a l ih => intro t; rw [List.foldl_cons, ih]; split <;> rfl
    exact (this _ _).symm
  · have : ∀ (l : List SlotIx) (t : State),
        (l.foldl (fun u k => if (s.slot k).hasSource then u.latchSource k else u) t).out = t.out := by
      intro l
      induction l with
      | nil => intro t; rfl
      | cons a l ih => intro t; rw [List.foldl_cons, ih]; split <;> rfl
    exact (this _ _).trans (by simp [State.imaged])
  · exact (State.airFrame_reformAll _).trans (State.airFrame_measureQuiet _)
  · intro k hk p
    have hs : ∀ (t : State), ((t.latchSource k).port p).latched .source = true ∧
        ((t.latchSource k).port p).changed.getLsbD k.val = true := by
      intro t
      rw [State.port_latchSource]
      refine ⟨?_, ?_⟩
      · simp only [PortState.latched, BitVec.getLsbD_or, Cause.bit_getLsbD]; simp
      · have : (slotBit k).getLsbD k.val = true := by clear hk; revert k; decide
        simp only [BitVec.getLsbD_or, this, Bool.or_true]
    have step : ∀ (t : State) (a : SlotIx), t.FeedFrame (if (s.slot a).hasSource then t.latchSource a else t) := by
      intro t a
      split
      · exact t.feedFrame_latchSource a
      · exact .refl t
    have : ∀ (l : List SlotIx) (t : State), k ∈ l →
        ((l.foldl (fun u k => if (s.slot k).hasSource then u.latchSource k else u) t).port p).latched .source = true ∧
          ((l.foldl (fun u k => if (s.slot k).hasSource then u.latchSource k else u) t).port p).changed.getLsbD k.val = true := by
      intro l
      induction l with
      | nil => intro t h; simp at h
      | cons a l ih =>
        intro t h
        rw [List.foldl_cons]
        by_cases ha : k = a
        · subst ha
          rw [if_pos hk]
          have fr := State.feedFrame_sweep (fun u k => if (s.slot k).hasSource then u.latchSource k else u) step l (t.latchSource k)
          exact ⟨fr.latched (hs t).1, fr.changed (hs t).2⟩
        · exact ih _ (by simpa [ha] using h)
    exact this _ _ (mem_slotIndices k)

/-- Each slot after a load, but for its ramp, grant and share (R49, R144). -/
theorem State.loadImage_slot (s : State) (img : PlanImage) (k : SlotIx) :
    (((s.loadImage img).slot k).record = img.records[k.val] ∧ ((s.loadImage img).slot k).words = wordsOf img.records[k.val] ∧
      ((s.loadImage img).slot k).retuning = false) ∧
      ((s.slot k).start img.records[k.val]).SameListening ((s.loadImage img).slot k) := by
  obtain ⟨u, _, hu, _, hf, _⟩ := s.loadImage_frame img
  have h1 : ((s.loadImage img).slot k).record = ((s.imaged img).slot k).record := by rw [hf.record, hu]; rfl
  have h2 : ((s.loadImage img).slot k).words = ((s.imaged img).slot k).words := by rw [hf.words, hu]; rfl
  have h3 : ((s.loadImage img).slot k).retuning = ((s.imaged img).slot k).retuning := by rw [hf.retuning, hu]; rfl
  rw [State.slot_imaged] at h1 h2 h3
  refine ⟨⟨h1, h2, h3⟩, ?_⟩
  have := hf.listening k
  rwa [State.slot_formBudget, ← hu, State.slot_imaged] at this

/-- What a load leaves of the rest of the state. -/
theorem State.loadImage_rest (s : State) (img : PlanImage) :
    (s.loadImage img).wide = img.wide ∧ (s.loadImage img).engine = .idle ∧ (s.loadImage img).generation = s.generation ∧
      (s.loadImage img).changes = s.changes ∧ (s.loadImage img).store = s.store ∧ (s.loadImage img).feeds = s.feeds ∧
      (s.loadImage img).out.hold = s.out.hold ∧ (s.loadImage img).out.trips = s.out.trips ∧
      (s.loadImage img).out.level = s.out.level ∧
      (∀ p, ∃ l c, l ||| airBits = airBits ∧ (s.loadImage img).port p =
        { s.port p with latches := (s.port p).latches ||| l, changed := (s.port p).changed ||| c }) := by
  obtain ⟨u, hi, _, ho, hf, _⟩ := s.loadImage_frame img
  refine ⟨?_, ?_, ?_, ?_, ?_, ?_, ?_, ?_, ?_, ?_⟩
  · rw [hf.wide]; exact hi.wide.trans (by simp [State.imaged])
  · rw [hf.engine]; exact hi.engine.trans (by simp [State.imaged])
  · rw [hf.generation]; exact hi.generation.trans (by simp [State.imaged])
  · rw [hf.changes]; exact hi.changes.trans (by simp [State.imaged])
  · rw [hf.store]; exact hi.store.trans (by simp [State.imaged])
  · rw [hf.feeds]; exact hi.feeds.trans (by simp [State.imaged])
  · rw [hf.hold, State.formBudget_out, ho]
  · rw [hf.trips, State.formBudget_out, ho]
  · rw [hf.level, State.formBudget_out, ho]
  · intro p
    obtain ⟨l, c, bl, h⟩ := hi.port p
    obtain ⟨m, bm, g⟩ := hf.port p
    refine ⟨l ||| m, c, ?_, ?_⟩
    · rw [BitVec.or_assoc, show m ||| airBits = airBits by rw [airBits, ← BitVec.or_assoc, bm], bl]
    have hp : (s.imaged img).port p = s.port p := State.port_congr (by simp [State.imaged]) p
    rw [g, State.port_formBudget, h, hp]
    simp only [BitVec.or_assoc]

/-- Away from ON_AIR a load leaves the transmitter state, and stops the quiet timer. -/
theorem State.loadImage_out {s : State} (h : s.out.state ≠ .onAir) (img : PlanImage) :
    (s.loadImage img).out = { s.out with quiet := none } := by
  obtain ⟨u, _, _, ho, _, he, _⟩ := s.loadImage_frame img
  have h' : u.formBudget.reformAll.out.state ≠ .onAir := by rw [State.reformAll_out, State.formBudget_out, ho]; exact h
  rw [he, State.measureQuiet_of_not_onAir h', State.formQuiet_out]
  have : u.formBudget.reformAll.quietCondition = false := by
    have := h'
    simp [State.quietCondition, ho, h]
  rw [this]
  simp [ho]

end Sys2Proof.Machine
end

