-- ==== Sys2Proof/Laws/EngineLaws.lean ====
section
/-! SUPPORT. The laws of the ramps, the governor, the Output Controller and the selection through the Plan Engine's operations, trips
and resets. -/

namespace Sys2Proof.Machine

/-! ## What a law reads -/

theorem State.HeardLaw.of_slots {s t : State} (h : s.HeardLaw) (hk : ∀ k, (s.slot k).SameListening (t.slot k))
    (hr : ∀ k, (t.slot k).record.fallback.isSome = (s.slot k).record.fallback.isSome ∧
      (t.slot k).record.lossAction = (s.slot k).record.lossAction) : t.HeardLaw :=
  fun k => (h k).of_same (hk k) (hr k).1 (hr k).2

theorem State.HeardLaw.same {s t : State} (h : s.HeardLaw) (hk : t.slots = s.slots) : t.HeardLaw := fun k => by
  rw [State.slot_congr hk]; exact h k

theorem State.RampLaw.same {s t : State} (h : s.RampLaw) (hk : t.slots = s.slots) : t.RampLaw := fun k => by
  rw [State.slot_congr hk]; exact h k

theorem State.DemandLaw.same {s t : State} (h : s.DemandLaw) (hk : t.slots = s.slots) (ha : t.airOpen = s.airOpen) :
    t.DemandLaw :=
  h.of_same (fun k => by rw [State.slot_congr hk]) ha fun k => by rw [State.slot_congr hk]

theorem State.GovernorLaw.same {s t : State} (h : s.GovernorLaw) (hk : t.slots = s.slots) (hw : t.wide.budget = s.wide.budget)
    (hl : t.out.level = s.out.level) (hb : t.bEff = s.bEff) : t.GovernorLaw :=
  h.of_same hw hl hb fun k => by rw [State.slot_congr hk]; exact ⟨rfl, rfl, rfl, rfl, rfl⟩

theorem State.OnAirLaw.same {s t : State} (h : s.OnAirLaw) (hk : t.slots = s.slots) (ho : t.out.state = s.out.state) :
    t.OnAirLaw :=
  h.of_same ho fun k => by rw [State.slot_congr hk]

/-! ## Ramps -/

theorem State.rampLaw_modSlot {s : State} (h : s.RampLaw) {k : SlotIx} {f : Slot → Slot} (hf : (f (s.slot k)).ramp.Lawful) :
    (s.modSlot k f).RampLaw := fun j => by
  rw [State.slot_modSlot]; split
  · exact hf
  · exact h j

theorem State.RampLaw.applyRecord {s : State} (h : s.RampLaw) (k : SlotIx) (r : SlotRecord) : (s.applyRecord k r).RampLaw := by
  have h' : (s.modSlot k fun x => x.start r).RampLaw := State.rampLaw_modSlot h (h k)
  unfold State.applyRecord
  simp only
  split
  · exact (State.RampLaw.reformSlot (s := (s.modSlot k fun x => x.start r).latchSource k) (h'.same rfl) k).formQuiet
  · exact (h'.reformSlot k).formQuiet

theorem State.RampLaw.commit {s : State} (h : s.RampLaw) (e : Entry) : (s.commit e).RampLaw := h.same rfl

theorem State.RampLaw.endDrain {s : State} (h : s.RampLaw) : s.endDrain.RampLaw := by
  have key : ∀ k r e, ((({ s with engine := .idle } : State).applyRecord k r).commit e).RampLaw := fun k r e =>
    (State.RampLaw.applyRecord (s := { s with engine := .idle }) (by exact h.same rfl) k r).commit e
  unfold State.endDrain
  split
  · split
    · split
      · exact h
      · exact key _ _ _
    · split
      · exact h
      · exact key _ _ _
    · split
      · exact h.same rfl
      · exact h
    · exact h
  · exact h

theorem State.RampLaw.afterOff {s : State} (h : s.RampLaw) : s.afterOff.RampLaw := h.endDrain.closeIfOff

theorem State.RampLaw.trip {s : State} (h : s.RampLaw) : s.trip.RampLaw := by
  unfold State.trip
  exact (State.RampLaw.forceOff (by exact h.same rfl)).afterOff

theorem State.RampLaw.leaveTripped {s : State} (h : s.RampLaw) : s.leaveTripped.RampLaw := by
  unfold State.leaveTripped
  split
  · exact h.enterWarmUp
  · exact h.setTx _

theorem State.RampLaw.changeLevel {s : State} (h : s.RampLaw) (l : Protection) : (s.changeLevel l).RampLaw := by
  have h' : ((({ s with out := { s.out with level := l } } : State).latchBoth .protection).formBudget.govern).RampLaw :=
    State.RampLaw.govern (by exact h.same rfl)
  unfold State.changeLevel
  simp only
  split
  · split
    · exact h'.trip
    · exact h'
  · split
    · exact h'.leaveTripped
    · exact h'

theorem State.RampLaw.txEnableWritten {s : State} (h : s.RampLaw) (v : Bool) : (s.txEnableWritten v).RampLaw := by
  unfold State.txEnableWritten
  split
  · exact h
  · split
    · exact h.txEnabled
    · exact h.txDisabled

theorem State.RampLaw.carryOut {s : State} (h : s.RampLaw) (e : Entry) : (s.carryOut e).RampLaw := by
  have slotChange : ∀ k r, (s.takeSlotChange e k r).RampLaw := fun k r => by
    unfold State.takeSlotChange
    split
    · exact (State.RampLaw.reformSlot (State.rampLaw_modSlot (s := { s with engine := .draining e }) (by exact h.same rfl) (h k)) k).afterOff
    · exact (h.applyRecord k r).commit e
  unfold State.carryOut
  split
  · exact slotChange _ _
  · exact slotChange _ _
  · refine State.RampLaw.commit ?_ e
    unfold State.applyPower
    exact State.RampLaw.govern (State.rampLaw_modSlot h (h _))
  · refine State.RampLaw.commit ?_ e
    unfold State.applyThresholds
    exact State.rampLaw_modSlot h (h _)
  · rename_i k v _
    have h' := (State.RampLaw.reformSlot (State.rampLaw_modSlot (s := s) (k := k)
      (f := fun x => { x with record := { x.record with enabled := v } }) h (h k)) k).formQuiet
    refine State.RampLaw.commit ?_ e
    unfold State.applyEnable
    simp only
    split
    · exact h'.wake
    · exact h'
  · refine State.RampLaw.commit ?_ e
    unfold State.applyParams
    exact State.RampLaw.measureQuiet (State.RampLaw.govern (by exact h.same rfl))
  · refine State.RampLaw.commit ?_ e
    unfold State.applyTransmit
    exact State.RampLaw.txEnableWritten (by exact h.same rfl) _
  · unfold State.takeLoad
    refine State.RampLaw.afterOff (State.RampLaw.reformAll ?_)
    exact State.RampLaw.of_ramps (s := s) h fun k => by rw [State.slot_mapSlots]; rfl
  · refine State.RampLaw.commit ?_ e
    have h' : (({ s with out := { s.out with trips := [] } } : State).setTx .offAir).RampLaw := h.same rfl
    unfold State.applyClearLockout
    simp only
    split
    · exact h'.enterWarmUp
    · exact h'

theorem State.RampLaw.takeKind {s : State} (h : s.RampLaw) (kind : ChangeKind) : (s.takeKind kind).RampLaw := by
  unfold State.takeKind
  split
  · split
    · unfold State.takeEntry
      split
      · exact h.same rfl
      · split
        · exact h.same rfl
        · exact State.RampLaw.carryOut (by exact h.same rfl) _
    · exact h
  · exact h

theorem State.RampLaw.loadImage {s : State} (h : s.RampLaw) (img : PlanImage) : (s.loadImage img).RampLaw := by
  obtain ⟨u, _, hu, _, _, he, _⟩ := s.loadImage_frame img
  rw [he]
  refine (State.RampLaw.reformAll (State.RampLaw.of_ramps h fun k => ?_)).measureQuiet
  rw [State.slot_formBudget, ← hu, State.slot_imaged]; rfl

theorem State.RampLaw.endBoot {s : State} (h : s.RampLaw) (r : BootResult) : (s.endBoot r).RampLaw := by
  unfold State.endBoot
  exact State.RampLaw.txEnableWritten (by exact h.same rfl) _

theorem State.RampLaw.endRead {s : State} (h : s.RampLaw) : s.endRead.RampLaw := by
  unfold State.endRead
  split
  · simp only
    split
    · unfold State.completeLoad
      exact State.RampLaw.txEnableWritten (State.RampLaw.commit (State.RampLaw.loadImage (by exact h.same rfl) _) _) _
    · unfold State.completeBoot
      refine State.RampLaw.endBoot ?_ _
      exact State.RampLaw.same (s := State.loadImage { s with store := s.store.endRead } _)
        (State.RampLaw.loadImage (by exact h.same rfl) _) rfl
    · exact h
  · exact h

theorem State.RampLaw.endOfReset {s : State} (h : s.RampLaw) (hi lo : Bool) : (s.endOfReset hi lo).RampLaw := by
  have h' : (s.released hi lo).RampLaw := h.of_ramps fun k => s.released_slot_ramp hi lo k
  rw [State.endOfReset_eq]
  rcases (s.released hi lo).bootDecision_cases with ⟨_, e⟩ | ⟨_, _, _, e⟩ | ⟨_, _, _, e⟩ | ⟨_, _, _, _, e⟩ <;> rw [e]
  · exact h'.endBoot _
  · exact h'.endBoot _
  · exact h'.endBoot _
  · exact h'.same rfl

theorem State.RampLaw.setHold {s : State} (h : s.RampLaw) (p : Port) (v : Bool) : (s.setHold p v).RampLaw := by
  unfold State.setHold
  simp only
  split
  · exact h.same rfl
  · exact (State.RampLaw.reformAll (by exact h.same rfl)).formQuiet

theorem State.RampLaw.rampStepEvent {s : State} (h : s.RampLaw) (k : SlotIx) : (s.rampStepEvent k).RampLaw := by
  have h' : (s.modSlot k fun x => { x with ramp := x.ramp.advance s.wide.rampStep }.formShare).RampLaw :=
    State.rampLaw_modSlot h (Ramp.advance_lawful (h k))
  unfold State.rampStepEvent
  simp only
  split
  · exact h'.govern.afterOff
  · exact h'

theorem State.RampLaw.expireHoldOff {s : State} (h : s.RampLaw) (k : SlotIx) : (s.expireHoldOff k).RampLaw := by
  unfold State.expireHoldOff
  simp only
  split
  · exact h.applySelection _ _
  · exact h.putSlot rfl

theorem State.RampLaw.measure {s : State} (h : s.RampLaw) (k : SlotIx) (n : PathName) (d : Int) : (s.measure k n d).RampLaw := by
  cases hv : s.measured k n d with
  | none => rw [State.measure_none hv]; exact h
  | some v =>
    rw [State.measure_some hv]
    have h' : (s.putSlot k ((s.slot k).putPath n v)).RampLaw := h.putSlot (by simp)
    split
    · exact h'
    · exact h'.applySelection _ _

theorem State.RampLaw.measureSlot {s : State} (h : s.RampLaw) (k : SlotIx) (d : Delivered) : (s.measureSlot k d).RampLaw := by
  unfold State.measureSlot
  split
  · exact (h.measure _ _ _).measure _ _ _
  · exact (h.measure _ _ _).measure _ _ _

theorem State.RampLaw.unlockSlot {s : State} (h : s.RampLaw) (f : Feed) (k : SlotIx) : (s.unlockSlot f k).RampLaw := by
  rw [State.unlockSlot_eq]
  split
  · exact State.RampLaw.applySelection (h.putSlot (Slot.unlocked_ramp _ _)) _ _
  · exact h

theorem State.moveReceiver_slots (s : State) (f : Feed) (r : Receiver) :
    (s.moveReceiver f r).slots = s.slots ∧ (s.moveReceiver f r).out = s.out ∧ (s.moveReceiver f r).wide = s.wide ∧
      (s.moveReceiver f r).bEff = s.bEff := by
  unfold State.moveReceiver
  simp only
  split <;> cases f <;> exact ⟨rfl, rfl, rfl, rfl⟩

theorem State.monitored_slots (s : State) : ({ s with monitorIn := 10 } : State).slots = s.slots := rfl

theorem State.RampLaw.lostMarker {s : State} (h : s.RampLaw) (f : Feed) : (s.lostMarker f).RampLaw := by
  have h' : (s.moveReceiver f (s.receiver f).badMarker).RampLaw := h.same (s.moveReceiver_slots f _).1
  unfold State.lostMarker
  simp only
  split
  · exact h'
  · exact State.sweep_keeps (P := State.RampLaw) (g := fun u k => u.unlockSlot f k) (fun u k hu => State.RampLaw.unlockSlot hu f k) _ _ h'

theorem State.RampLaw.monitor {s : State} (h : s.RampLaw) (v : Levels) : (s.monitor v).RampLaw :=
  State.sweep_keeps (P := State.RampLaw) (g := fun u k => u.measureSlot k v[k.val]) (fun u k hu => State.RampLaw.measureSlot hu k _)
    _ { s with monitorIn := 10 } (by exact h.same rfl)

/-! ## The on-demand condition -/

/-- A change of one slot followed by the forming of its D, and of whatever reads neither D nor its terms. -/
theorem State.demandLaw_slotChange {s u : State} (h : s.DemandLaw) {k : SlotIx} (ho : u.airOpen = s.airOpen)
    (hk : ∀ j, j ≠ k → u.slot j = s.slot j) : (u.reformSlot k).DemandLaw :=
  State.demandLaw_reformSlot fun j hj => by
    rw [State.onDemand_congr (s := s) ho (by rw [hk j hj]), hk j hj]; exact h j

theorem State.DemandLaw.commit {s : State} (h : s.DemandLaw) (e : Entry) : (s.commit e).DemandLaw := h.same rfl rfl

theorem State.DemandLaw.applyRecord {s : State} (h : s.DemandLaw) (k : SlotIx) (r : SlotRecord) : (s.applyRecord k r).DemandLaw := by
  unfold State.applyRecord
  simp only
  split
  · refine State.DemandLaw.formQuiet (State.demandLaw_slotChange h rfl fun j hj => ?_)
    rw [State.slot_latchSource, State.slot_modSlot_of_ne s hj]
  · exact State.DemandLaw.formQuiet (State.demandLaw_slotChange h rfl fun j hj => State.slot_modSlot_of_ne s hj _)

theorem State.DemandLaw.endDrain {s : State} (h : s.DemandLaw) : s.endDrain.DemandLaw := by
  have key : ∀ k r e, ((({ s with engine := .idle } : State).applyRecord k r).commit e).DemandLaw := fun k r e =>
    (State.DemandLaw.applyRecord (s := { s with engine := .idle }) (by exact h.same rfl rfl) k r).commit e
  unfold State.endDrain
  split
  · split
    · split
      · exact h
      · exact key _ _ _
    · split
      · exact h
      · exact key _ _ _
    · split
      · exact h.same rfl rfl
      · exact h
    · exact h
  · exact h

theorem State.DemandLaw.afterOff {s : State} (h : s.DemandLaw) : s.afterOff.DemandLaw := h.endDrain.closeIfOff

theorem State.demandLaw_trip (s : State) : s.trip.DemandLaw := by
  unfold State.trip
  refine State.DemandLaw.afterOff (State.demandLaw_of_closed ?_ fun k => ?_)
  · simp only [State.airOpen, State.forceOff_out, State.setTx_out]
    split <;> rfl
  · rw [State.forceOff_off]; exact ⟨nofun, nofun⟩

theorem State.DemandLaw.leaveTripped {s : State} (h : s.DemandLaw) (hs : s.out.state = .tripped) : s.leaveTripped.DemandLaw := by
  unfold State.leaveTripped
  split
  · exact h.enterWarmUp (by rw [hs]; decide)
  · exact h.setTx (by rw [hs]; decide) (by decide)

theorem State.DemandLaw.changeLevel {s : State} (h : s.DemandLaw) (l : Protection) : (s.changeLevel l).DemandLaw := by
  have h' : ((({ s with out := { s.out with level := l } } : State).latchBoth .protection).formBudget.govern).DemandLaw :=
    State.DemandLaw.govern (by exact h.same rfl rfl)
  unfold State.changeLevel
  simp only
  split
  · split
    · exact State.demandLaw_trip _
    · exact h'
  · split
    · rename_i hl; exact h'.leaveTripped (by simpa using hl.2)
    · exact h'

theorem State.DemandLaw.txEnableWritten {s : State} (h : s.DemandLaw) (v : Bool) : (s.txEnableWritten v).DemandLaw := by
  unfold State.txEnableWritten
  split
  · exact h
  · split
    · exact h.txEnabled
    · exact h.txDisabled

/-- A slot's record or dwell counters moved, its terms of D not. -/
theorem State.DemandLaw.modSlot {s : State} (h : s.DemandLaw) {k : SlotIx} {f : Slot → Slot}
    (hr : (f (s.slot k)).ramp = (s.slot k).ramp) (hw : (f (s.slot k)).wanted = (s.slot k).wanted) : (s.modSlot k f).DemandLaw :=
  h.putSlot hr hw

theorem State.DemandLaw.carryOut {s : State} (h : s.DemandLaw) (e : Entry)
    (hc : e.change = .clearLockout → s.out.state = .lockout) : (s.carryOut e).DemandLaw := by
  have slotChange : ∀ k r, (s.takeSlotChange e k r).DemandLaw := fun k r => by
    unfold State.takeSlotChange
    split
    · exact State.DemandLaw.afterOff (State.demandLaw_slotChange (s := s) h rfl fun j hj => State.slot_modSlot_of_ne _ hj _)
    · exact (h.applyRecord k r).commit e
  unfold State.carryOut
  split
  · exact slotChange _ _
  · exact slotChange _ _
  · refine State.DemandLaw.commit ?_ e
    unfold State.applyPower
    exact State.DemandLaw.govern (h.modSlot rfl rfl)
  · refine State.DemandLaw.commit ?_ e
    unfold State.applyThresholds
    exact h.modSlot rfl rfl
  · rename_i k v _
    have h' : ((s.modSlot k fun x => { x with record := { x.record with enabled := v } }).reformSlot k).formQuiet.DemandLaw :=
      State.DemandLaw.formQuiet (State.demandLaw_slotChange h rfl fun j hj => State.slot_modSlot_of_ne s hj _)
    refine State.DemandLaw.commit ?_ e
    unfold State.applyEnable
    simp only
    split
    · exact h'.wake
    · exact h'
  · refine State.DemandLaw.commit ?_ e
    unfold State.applyParams
    exact State.DemandLaw.measureQuiet (State.DemandLaw.govern (by exact h.same rfl rfl))
  · refine State.DemandLaw.commit ?_ e
    unfold State.applyTransmit
    exact State.DemandLaw.txEnableWritten (by exact h.same rfl rfl) _
  · unfold State.takeLoad
    exact State.DemandLaw.afterOff (State.demandLaw_reformAll _)
  · rename_i he
    have hs := hc he
    refine State.DemandLaw.commit ?_ e
    have h' : (({ s with out := { s.out with trips := [] } } : State).setTx .offAir).DemandLaw :=
      State.DemandLaw.setTx (by exact h.same rfl rfl) (by show s.out.state ≠ _; rw [hs]; decide) (by decide)
    unfold State.applyClearLockout
    simp only
    split
    · exact h'.enterWarmUp (by simp)
    · exact h'

/-- A CLEAR_LOCKOUT that passes its test finds the transmitter in LOCKOUT (Table 2.4.2). -/
theorem State.lockout_of_test {s : State} {c : Change} (h : s.testChange (clampChange c) = none)
    (hc : clampChange c = .clearLockout) : s.out.state = .lockout := by
  rw [hc] at h
  unfold State.testChange at h
  simpa using h

theorem State.DemandLaw.takeKind {s : State} (h : s.DemandLaw) (kind : ChangeKind) : (s.takeKind kind).DemandLaw := by
  unfold State.takeKind
  split
  · split
    · unfold State.takeEntry
      split
      · exact h.same rfl rfl
      · split
        · exact h.same rfl rfl
        · rename_i ht
          exact State.DemandLaw.carryOut (by exact h.same rfl rfl) _ fun hc => State.lockout_of_test ht hc
    · exact h
  · exact h

theorem State.demandLaw_loadImage (s : State) (img : PlanImage) : (s.loadImage img).DemandLaw := by
  obtain ⟨u, _, _, _, _, he, _⟩ := s.loadImage_frame img
  rw [he]
  exact (State.demandLaw_reformAll _).measureQuiet

theorem State.DemandLaw.endBoot {s : State} (h : s.DemandLaw) (r : BootResult) : (s.endBoot r).DemandLaw := by
  unfold State.endBoot
  exact State.DemandLaw.txEnableWritten (by exact h.same rfl rfl) _

theorem State.DemandLaw.endRead {s : State} (h : s.DemandLaw) : s.endRead.DemandLaw := by
  unfold State.endRead
  split
  · simp only
    split
    · unfold State.completeLoad
      exact State.DemandLaw.txEnableWritten (State.DemandLaw.commit (State.demandLaw_loadImage _ _) _) _
    · unfold State.completeBoot
      refine State.DemandLaw.endBoot ?_ _
      exact State.DemandLaw.same (s := State.loadImage { s with store := s.store.endRead } _) (State.demandLaw_loadImage _ _) rfl rfl
    · exact h
  · exact h

theorem State.DemandLaw.endOfReset {s : State} (h : s.DemandLaw) (hi lo : Bool) : (s.endOfReset hi lo).DemandLaw := by
  have h' : (s.released hi lo).DemandLaw := h.of_same (fun k => by rw [s.released_slot_ramp hi lo k])
    (State.airOpen_congr (by simp) (by simp)) fun k => Slot.wanted_congr (by simp) (by simp [State.released]) (by simp [State.released])
  rw [State.endOfReset_eq]
  rcases (s.released hi lo).bootDecision_cases with ⟨_, e⟩ | ⟨_, _, _, e⟩ | ⟨_, _, _, e⟩ | ⟨_, _, _, _, e⟩ <;> rw [e]
  · exact h'.endBoot _
  · exact h'.endBoot _
  · exact h'.endBoot _
  · exact h'.same rfl rfl

theorem State.DemandLaw.setHold {s : State} (h : s.DemandLaw) (p : Port) (v : Bool) : (s.setHold p v).DemandLaw := by
  unfold State.setHold
  simp only
  split
  · rename_i he
    refine h.same rfl ?_
    simp only [State.airOpen]
    rw [← he]
  · exact State.DemandLaw.formQuiet (State.demandLaw_reformAll _)

theorem Ramp.advance_up {rs : Nat} {r : Ramp} :
    ((r.advance rs).state = .rampUp ∨ (r.advance rs).state = .on) ↔ (r.state = .rampUp ∨ r.state = .on) := by
  obtain ⟨st, n, t⟩ := r
  cases st <;> simp only [Ramp.advance] <;> (try split) <;> simp [Ramp.rest]

theorem State.DemandLaw.rampStepEvent {s : State} (h : s.DemandLaw) (k : SlotIx) : (s.rampStepEvent k).DemandLaw := by
  have h' : (s.modSlot k fun x => { x with ramp := x.ramp.advance s.wide.rampStep }.formShare).DemandLaw := fun j => by
    have ho : (s.modSlot k fun x => { x with ramp := x.ramp.advance s.wide.rampStep }.formShare).onDemand j = s.onDemand j := by
      refine State.onDemand_congr rfl ?_
      rw [State.slot_modSlot]
      split
      · rename_i hj; subst hj; rfl
      · rfl
    rw [ho, State.slot_modSlot]
    split
    · rename_i hj; subst hj
      exact Ramp.advance_up.trans (h j)
    · exact h j
  unfold State.rampStepEvent
  simp only
  split
  · exact h'.govern.afterOff
  · exact h'

theorem State.DemandLaw.expireHoldOff {s : State} (h : s.DemandLaw) (k : SlotIx) : (s.expireHoldOff k).DemandLaw := by
  unfold State.expireHoldOff
  simp only
  split
  · exact h.applySelection _ _
  · exact h.putSlot rfl rfl

theorem State.DemandLaw.measure {s : State} (h : s.DemandLaw) (k : SlotIx) (n : PathName) (d : Int) : (s.measure k n d).DemandLaw := by
  cases hv : s.measured k n d with
  | none => rw [State.measure_none hv]; exact h
  | some v =>
    rw [State.measure_some hv]
    have h' : (s.putSlot k ((s.slot k).putPath n v)).DemandLaw := h.putSlot (by simp) (Slot.wanted_congr (by simp) (by simp) (by simp))
    split
    · exact h'
    · exact h'.applySelection _ _

theorem State.DemandLaw.measureSlot {s : State} (h : s.DemandLaw) (k : SlotIx) (d : Delivered) : (s.measureSlot k d).DemandLaw := by
  unfold State.measureSlot
  split
  · exact (h.measure _ _ _).measure _ _ _
  · exact (h.measure _ _ _).measure _ _ _

theorem State.DemandLaw.unlockSlot {s : State} (h : s.DemandLaw) (f : Feed) (k : SlotIx) : (s.unlockSlot f k).DemandLaw := by
  rw [State.unlockSlot_eq]
  split
  · exact State.DemandLaw.applySelection (h.putSlot (Slot.unlocked_ramp _ _)
      (Slot.wanted_congr (Slot.unlocked_record _ _) (Slot.unlocked_retuning _ _) (by rw [Slot.unlocked_sel]))) _ _
  · exact h

theorem State.DemandLaw.lostMarker {s : State} (h : s.DemandLaw) (f : Feed) : (s.lostMarker f).DemandLaw := by
  have hm := s.moveReceiver_slots f (s.receiver f).badMarker
  have h' : (s.moveReceiver f (s.receiver f).badMarker).DemandLaw :=
    h.same hm.1 (State.airOpen_congr (by rw [hm.2.1]) (by rw [hm.2.1]))
  unfold State.lostMarker
  simp only
  split
  · exact h'
  · exact State.sweep_keeps (P := State.DemandLaw) (g := fun u k => u.unlockSlot f k)
      (fun u k hu => State.DemandLaw.unlockSlot hu f k) _ _ h'

theorem State.DemandLaw.monitor {s : State} (h : s.DemandLaw) (v : Levels) : (s.monitor v).DemandLaw :=
  State.sweep_keeps (P := State.DemandLaw) (g := fun u k => u.measureSlot k v[k.val])
    (fun u k hu => State.DemandLaw.measureSlot hu k _) _ { s with monitorIn := 10 } (h.same rfl rfl)

end Sys2Proof.Machine
end

