-- ==== Sys2Proof/Laws/GovernorLaws.lean ====
section
/-! SUPPORT. The law of the governor through every operation, and what the computation of R104 upholds. -/

namespace Sys2Proof.Machine

/-- The effective budget is the one that R103 forms. -/
def State.BudgetFormed (s : State) : Prop := s.bEff = effectiveBudget s.wide.budget s.out.level

theorem State.GovernorLaw.formed {s : State} (h : s.GovernorLaw) : s.BudgetFormed := h.1

theorem State.budgetFormed_formBudget (s : State) : s.formBudget.BudgetFormed := rfl

theorem State.BudgetFormed.air {s t : State} (h : s.BudgetFormed) (f : s.AirFrame t) : t.BudgetFormed := by
  unfold State.BudgetFormed at h ⊢; rw [f.bEff, f.wide, f.level]; exact h

theorem State.BudgetFormed.govern {s : State} (h : s.BudgetFormed) : s.govern.GovernorLaw := State.governorLaw_govern h

theorem State.BudgetFormed.reformAll {s : State} (h : s.BudgetFormed) : s.reformAll.GovernorLaw := by
  refine State.governorLaw_govern ?_
  rw [State.reactAll_bEff, State.reactAll_wide, State.reactAll_out]; exact h

theorem State.BudgetFormed.reformSlot {s : State} (h : s.BudgetFormed) (k : SlotIx) : (s.reformSlot k).GovernorLaw :=
  State.GovernorLaw.reformSlot h k

theorem State.BudgetFormed.forceOff {s : State} (h : s.BudgetFormed) : s.forceOff.GovernorLaw := by
  refine State.governorLaw_govern ?_
  rw [State.mapSlots_bEff, State.mapSlots_wide, State.mapSlots_out]; exact h

theorem State.GovernorLaw.commit {s : State} (h : s.GovernorLaw) (e : Entry) : (s.commit e).GovernorLaw := h.same rfl rfl rfl rfl

theorem State.GovernorLaw.applyRecord {s : State} (h : s.GovernorLaw) (k : SlotIx) (r : SlotRecord) :
    (s.applyRecord k r).GovernorLaw := by
  unfold State.applyRecord
  simp only
  split
  · exact (State.BudgetFormed.reformSlot (s := (s.modSlot k fun x => x.start r).latchSource k) h.1 k).formQuiet
  · exact (State.BudgetFormed.reformSlot (s := s.modSlot k fun x => x.start r) h.1 k).formQuiet

theorem State.GovernorLaw.endDrain {s : State} (h : s.GovernorLaw) : s.endDrain.GovernorLaw := by
  have key : ∀ k r e, ((({ s with engine := .idle } : State).applyRecord k r).commit e).GovernorLaw := fun k r e =>
    (State.GovernorLaw.applyRecord (s := { s with engine := .idle }) (by exact h.same rfl rfl rfl rfl) k r).commit e
  unfold State.endDrain
  split
  · split
    · split
      · exact h
      · exact key _ _ _
    · split
      · exact h
      · exact key _ _ _
    · split
      · exact h.same rfl rfl rfl rfl
      · exact h
    · exact h
  · exact h

theorem State.GovernorLaw.afterOff {s : State} (h : s.GovernorLaw) : s.afterOff.GovernorLaw := h.endDrain.closeIfOff

theorem State.GovernorLaw.trip {s : State} (h : s.GovernorLaw) : s.trip.GovernorLaw := by
  unfold State.trip
  refine State.GovernorLaw.afterOff (State.BudgetFormed.forceOff ?_)
  exact h.1

theorem State.GovernorLaw.leaveTripped {s : State} (h : s.GovernorLaw) : s.leaveTripped.GovernorLaw := by
  unfold State.leaveTripped
  split
  · exact h.enterWarmUp
  · exact h.setTx _

theorem State.governorLaw_changeLevel (s : State) (l : Protection) : (s.changeLevel l).GovernorLaw := by
  have h' : ((({ s with out := { s.out with level := l } } : State).latchBoth .protection).formBudget.govern).GovernorLaw :=
    State.governorLaw_govern rfl
  unfold State.changeLevel
  simp only
  split
  · split
    · exact h'.trip
    · exact h'
  · split
    · exact h'.leaveTripped
    · exact h'

theorem State.GovernorLaw.txEnableWritten {s : State} (h : s.GovernorLaw) (v : Bool) : (s.txEnableWritten v).GovernorLaw := by
  unfold State.txEnableWritten
  split
  · exact h
  · split
    · exact h.txEnabled
    · exact h.txDisabled

theorem State.GovernorLaw.carryOut {s : State} (h : s.GovernorLaw) (e : Entry) : (s.carryOut e).GovernorLaw := by
  have slotChange : ∀ k r, (s.takeSlotChange e k r).GovernorLaw := fun k r => by
    unfold State.takeSlotChange
    split
    · have hb : ((({ s with engine := .draining e } : State).modSlot k fun x => { x with retuning := true })).BudgetFormed :=
        h.1
      exact (hb.reformSlot k).afterOff
    · exact (h.applyRecord k r).commit e
  unfold State.carryOut
  split
  · exact slotChange _ _
  · exact slotChange _ _
  · refine State.GovernorLaw.commit ?_ e
    unfold State.applyPower
    exact State.governorLaw_govern h.1
  · refine State.GovernorLaw.commit ?_ e
    unfold State.applyThresholds
    refine h.of_same rfl rfl rfl fun j => ?_
    rw [State.slot_modSlot]
    split
    · rename_i hj; subst hj; exact ⟨rfl, rfl, rfl, rfl, rfl⟩
    · exact ⟨rfl, rfl, rfl, rfl, rfl⟩
  · rename_i k v _
    have hb : (s.modSlot k fun x => { x with record := { x.record with enabled := v } }).BudgetFormed := h.1
    have h' := (hb.reformSlot k).formQuiet
    refine State.GovernorLaw.commit ?_ e
    unfold State.applyEnable
    simp only
    split
    · exact h'.wake
    · exact h'
  · refine State.GovernorLaw.commit ?_ e
    unfold State.applyParams
    exact State.GovernorLaw.measureQuiet (State.governorLaw_govern rfl)
  · refine State.GovernorLaw.commit ?_ e
    unfold State.applyTransmit
    exact State.GovernorLaw.txEnableWritten (by exact h.same rfl rfl rfl rfl) _
  · unfold State.takeLoad
    refine State.GovernorLaw.afterOff (State.BudgetFormed.reformAll ?_)
    unfold State.BudgetFormed
    rw [State.mapSlots_bEff, State.mapSlots_wide, State.mapSlots_out]; exact h.1
  · refine State.GovernorLaw.commit ?_ e
    have h' : (({ s with out := { s.out with trips := [] } } : State).setTx .offAir).GovernorLaw := h.same rfl rfl rfl rfl
    unfold State.applyClearLockout
    simp only
    split
    · exact h'.enterWarmUp
    · exact h'

theorem State.GovernorLaw.takeKind {s : State} (h : s.GovernorLaw) (kind : ChangeKind) : (s.takeKind kind).GovernorLaw := by
  unfold State.takeKind
  split
  · split
    · unfold State.takeEntry
      split
      · exact h.same rfl rfl rfl rfl
      · split
        · exact h.same rfl rfl rfl rfl
        · exact State.GovernorLaw.carryOut (by exact h.same rfl rfl rfl rfl) _
    · exact h
  · exact h

theorem State.governorLaw_loadImage (s : State) (img : PlanImage) : (s.loadImage img).GovernorLaw := by
  obtain ⟨u, _, _, _, _, he, _⟩ := s.loadImage_frame img
  rw [he]
  exact (u.budgetFormed_formBudget.reformAll).measureQuiet

theorem State.GovernorLaw.endBoot {s : State} (h : s.GovernorLaw) (r : BootResult) : (s.endBoot r).GovernorLaw := by
  unfold State.endBoot
  exact State.GovernorLaw.txEnableWritten (by exact h.same rfl rfl rfl rfl) _

theorem State.GovernorLaw.endRead {s : State} (h : s.GovernorLaw) : s.endRead.GovernorLaw := by
  unfold State.endRead
  split
  · simp only
    split
    · unfold State.completeLoad
      exact State.GovernorLaw.txEnableWritten (State.GovernorLaw.commit (State.governorLaw_loadImage _ _) _) _
    · unfold State.completeBoot
      refine State.GovernorLaw.endBoot ?_ _
      exact State.GovernorLaw.same (s := State.loadImage { s with store := s.store.endRead } _)
        (State.governorLaw_loadImage _ _) rfl rfl rfl rfl
    · exact h
  · exact h

theorem State.governorLaw_endOfReset (s : State) (hi lo : Bool) : (s.endOfReset hi lo).GovernorLaw := by
  have h' : (s.released hi lo).GovernorLaw := State.governorLaw_govern rfl
  rw [State.endOfReset_eq]
  rcases (s.released hi lo).bootDecision_cases with ⟨_, e⟩ | ⟨_, _, _, e⟩ | ⟨_, _, _, e⟩ | ⟨_, _, _, _, e⟩ <;> rw [e]
  · exact h'.endBoot _
  · exact h'.endBoot _
  · exact h'.endBoot _
  · exact h'.same rfl rfl rfl rfl

theorem State.GovernorLaw.setHold {s : State} (h : s.GovernorLaw) (p : Port) (v : Bool) : (s.setHold p v).GovernorLaw := by
  unfold State.setHold
  simp only
  split
  · exact h.same rfl rfl rfl rfl
  · refine State.GovernorLaw.formQuiet (State.BudgetFormed.reformAll ?_)
    exact h.1

theorem Ramp.advance_transmitting {rs : Nat} {r : Ramp} (h : ¬ (r.state ≠ .off ∧ (r.advance rs).state = .off)) :
    ((r.advance rs).state != .off) = (r.state != .off) := by
  obtain ⟨st, n, t⟩ := r
  cases st <;> simp only [Ramp.advance] at h ⊢ <;> split <;> first | (simp_all [Ramp.rest]; done) | (simp_all; rfl)

theorem State.GovernorLaw.rampStepEvent {s : State} (h : s.GovernorLaw) (k : SlotIx) : (s.rampStepEvent k).GovernorLaw := by
  unfold State.rampStepEvent
  simp only
  split
  · refine State.GovernorLaw.afterOff (State.governorLaw_govern ?_)
    exact h.1
  · rename_i hn
    rw [State.slot_modSlot_self] at hn
    have ht : (Slot.formShare { s.slot k with ramp := (s.slot k).ramp.advance s.wide.rampStep }).transmitting =
        (s.slot k).transmitting := by
      refine Ramp.advance_transmitting fun hb => hn ?_
      simp only [Bool.and_eq_true, Bool.not_eq_true', Slot.transmitting, Slot.formShare]
      exact ⟨by simpa using hb.1, by simpa using hb.2⟩
    generalize hu : (s.modSlot k fun x => { x with ramp := x.ramp.advance s.wide.rampStep }.formShare) = u
    have hk : ∀ j, (u.slot j).request = (s.slot j).request ∧ (u.slot j).grant = (s.slot j).grant ∧
        (u.slot j).transmitting = (s.slot j).transmitting ∧ (u.slot j).record = (s.slot j).record := by
      intro j
      rw [← hu, State.slot_modSlot]
      split
      · rename_i hj; subst hj
        exact ⟨by simp only [Slot.request, ht]; rfl, rfl, ht, rfl⟩
      · exact ⟨rfl, rfl, rfl, rfl⟩
    have hd : u.demand = s.demand := State.demand_congr fun j => (hk j).1
    have hg : ∀ j, grantOf s.bEff s.demand (u.slot j) = grantOf s.bEff s.demand (s.slot j) := fun j => by
      simp only [grantOf, (hk j).2.2.1, (hk j).2.2.2]
    refine ⟨by rw [← hu]; exact h.1, fun j => ?_⟩
    rw [hd, show u.bEff = s.bEff by rw [← hu]; rfl, hg, (hk j).2.1]
    refine ⟨(h.2 j).1, ?_⟩
    by_cases hj : j = k
    · subst hj; rw [← hu, State.slot_modSlot_self]; rfl
    · rw [← hu, State.slot_modSlot_of_ne s hj]; exact (h.2 j).2

theorem State.GovernorLaw.expireHoldOff {s : State} (h : s.GovernorLaw) (k : SlotIx) : (s.expireHoldOff k).GovernorLaw := by
  unfold State.expireHoldOff
  simp only
  split
  · exact h.applySelection _ _
  · exact h.putSlot rfl rfl rfl rfl

theorem State.GovernorLaw.measure {s : State} (h : s.GovernorLaw) (k : SlotIx) (n : PathName) (d : Int) :
    (s.measure k n d).GovernorLaw := by
  cases hv : s.measured k n d with
  | none => rw [State.measure_none hv]; exact h
  | some v =>
    rw [State.measure_some hv]
    have h' : (s.putSlot k ((s.slot k).putPath n v)).GovernorLaw := h.putSlot (by simp) (by simp) (by simp) (by simp)
    split
    · exact h'
    · exact h'.applySelection _ _

theorem State.GovernorLaw.measureSlot {s : State} (h : s.GovernorLaw) (k : SlotIx) (d : Delivered) :
    (s.measureSlot k d).GovernorLaw := by
  unfold State.measureSlot
  split
  · exact (h.measure _ _ _).measure _ _ _
  · exact (h.measure _ _ _).measure _ _ _

theorem State.GovernorLaw.unlockSlot {s : State} (h : s.GovernorLaw) (f : Feed) (k : SlotIx) : (s.unlockSlot f k).GovernorLaw := by
  rw [State.unlockSlot_eq]
  split
  · exact State.GovernorLaw.applySelection (h.putSlot (Slot.unlocked_ramp _ _) (Slot.unlocked_grant _ _)
      (Slot.unlocked_share _ _) (Slot.unlocked_record _ _)) _ _
  · exact h

theorem State.GovernorLaw.lostMarker {s : State} (h : s.GovernorLaw) (f : Feed) : (s.lostMarker f).GovernorLaw := by
  have hm := s.moveReceiver_slots f (s.receiver f).badMarker
  have h' : (s.moveReceiver f (s.receiver f).badMarker).GovernorLaw :=
    h.same hm.1 (by rw [hm.2.2.1]) (by rw [hm.2.1]) hm.2.2.2
  unfold State.lostMarker
  simp only
  split
  · exact h'
  · exact State.sweep_keeps (P := State.GovernorLaw) (g := fun u k => u.unlockSlot f k)
      (fun u k hu => State.GovernorLaw.unlockSlot hu f k) _ _ h'

theorem State.GovernorLaw.monitor {s : State} (h : s.GovernorLaw) (v : Levels) : (s.monitor v).GovernorLaw :=
  State.sweep_keeps (P := State.GovernorLaw) (g := fun u k => u.measureSlot k v[k.val])
    (fun u k hu => State.GovernorLaw.measureSlot hu k _) _ { s with monitorIn := 10 } (h.same rfl rfl rfl rfl)

/-! ## What the computation upholds (R105) -/

theorem grantOf_le_power (b d : Nat) (x : Slot) : grantOf b d x ≤ x.record.power := by
  unfold grantOf
  split
  · split
    · exact le_refl _
    · rename_i h
      exact Nat.div_le_of_le_mul (by rw [Nat.mul_comm d]; exact Nat.mul_le_mul_left _ (by omega))
  · exact Nat.zero_le _

/-- The grants of a list of slots, scaled by a demand of at least their requests, fit the effective budget. -/
theorem grantOf_sum_le (b d : Nat) : ∀ l : List Slot, (l.map Slot.request).sum ≤ d → (l.map (grantOf b d)).sum ≤ b ∨ d ≤ b ∧
    (l.map (grantOf b d)).sum ≤ (l.map Slot.request).sum := by
  intro l h
  by_cases hd : d ≤ b
  · refine .inr ⟨hd, ?_⟩
    clear h
    induction l with
    | nil => simp
    | cons x l ih =>
      simp only [List.map_cons, List.sum_cons]
      have : grantOf b d x = x.request := by simp only [grantOf, if_pos hd, Slot.request]
      omega
  · left
    have hpos : 0 < d := by omega
    have key : ∀ l : List Slot, (l.map (grantOf b d)).sum * d ≤ (l.map Slot.request).sum * b := by
      intro l
      induction l with
      | nil => simp
      | cons x l ih =>
        simp only [List.map_cons, List.sum_cons, Nat.add_mul]
        have : grantOf b d x * d ≤ x.request * b := by
          simp only [grantOf, if_neg hd, Slot.request]
          split
          · exact Nat.div_mul_le_self _ _
          · simp
        omega
    have h2 : (l.map (grantOf b d)).sum * d ≤ d * b := le_trans (key l) (Nat.mul_le_mul_right _ h)
    rw [Nat.mul_comm d b] at h2
    exact Nat.le_of_mul_le_mul_right h2 hpos

end Sys2Proof.Machine
end

