-- ==== Sys2Proof/Laws/OutputLaws.lean ====
section
/-! SUPPORT. The laws of the Output Controller through every operation: PA_EN and the air, and the trip history. -/

namespace Sys2Proof.Machine

/-- The two parts of R116 together. -/
structure State.OutputLaw (s : State) : Prop where
  amplifier : s.AmplifierLaw
  air : s.OnAirLaw

namespace State.OutputLaw

variable {s : State}

theorem same {t : State} (h : s.OutputLaw) (hk : t.slots = s.slots) (hp : t.out.paEn = s.out.paEn)
    (hs : t.out.state = s.out.state) : t.OutputLaw :=
  ⟨h.amplifier.of_out hp hs, h.air.of_same hs fun k => by rw [State.slot_congr hk]⟩

theorem of_ramps {t : State} (h : s.OutputLaw) (ho : t.out = s.out)
    (hr : ∀ k, (t.slot k).ramp.state = (s.slot k).ramp.state) : t.OutputLaw :=
  ⟨h.amplifier.of_out (by rw [ho]) (by rw [ho]), h.air.of_same (by rw [ho]) hr⟩

theorem formQuiet (h : s.OutputLaw) : s.formQuiet.OutputLaw := ⟨h.amplifier, h.air.formQuiet⟩

theorem govern (h : s.OutputLaw) : s.govern.OutputLaw := ⟨h.amplifier.of_out (by simp) (by simp), h.air.govern⟩

theorem reformAll (h : s.OutputLaw) : s.reformAll.OutputLaw := ⟨h.amplifier.of_out (by simp) (by simp), h.air.reformAll⟩

theorem reformSlot (h : s.OutputLaw) (k : SlotIx) : (s.reformSlot k).OutputLaw :=
  ⟨h.amplifier.of_out (by simp) (by simp), h.air.reformSlot k⟩

theorem putSlot (h : s.OutputLaw) {k : SlotIx} {x : Slot} (hx : x.ramp = (s.slot k).ramp) : (s.putSlot k x).OutputLaw :=
  ⟨h.amplifier, h.air.putSlot hx⟩

theorem modSlot (h : s.OutputLaw) {k : SlotIx} {f : Slot → Slot} (hx : (f (s.slot k)).ramp = (s.slot k).ramp) :
    (s.modSlot k f).OutputLaw := h.putSlot hx

theorem closeIfOff (h : s.OutputLaw) : s.closeIfOff.OutputLaw := ⟨h.amplifier.closeIfOff, h.air.closeIfOff⟩

theorem txEnabled (h : s.OutputLaw) : s.txEnabled.OutputLaw := ⟨h.amplifier.txEnabled, h.air.txEnabled⟩

theorem txDisabled (h : s.OutputLaw) : s.txDisabled.OutputLaw := ⟨h.amplifier.txDisabled, h.air.txDisabled⟩

theorem wake (h : s.OutputLaw) : s.wake.OutputLaw := ⟨h.amplifier.wake, h.air.wake⟩

theorem quietExpired (h : s.OutputLaw) : s.quietExpired.OutputLaw := ⟨h.amplifier.quietExpired, h.air.quietExpired⟩

theorem measureQuiet (h : s.OutputLaw) : s.measureQuiet.OutputLaw := ⟨h.amplifier.measureQuiet, h.air.measureQuiet⟩

theorem enterOnAir : s.enterOnAir.OutputLaw := ⟨s.amplifierLaw_enterOnAir, s.onAirLaw_enterOnAir⟩

theorem applySelection (h : s.OutputLaw) (k : SlotIx) (v : Selector) : (s.applySelection k v).OutputLaw :=
  ⟨h.amplifier.applySelection k v, h.air.applySelection k v⟩

theorem commit (h : s.OutputLaw) (e : Entry) : (s.commit e).OutputLaw := h.same rfl rfl rfl

theorem applyRecord (h : s.OutputLaw) (k : SlotIx) (r : SlotRecord) : (s.applyRecord k r).OutputLaw := by
  have h' : (s.modSlot k fun x => x.start r).OutputLaw := h.modSlot rfl
  have h2 : ((s.modSlot k fun x => x.start r).latchSource k).OutputLaw := h'.same rfl rfl rfl
  unfold State.applyRecord
  simp only
  split
  · exact (h2.reformSlot k).formQuiet
  · exact (h'.reformSlot k).formQuiet

theorem endDrain (h : s.OutputLaw) : s.endDrain.OutputLaw := by
  have hi : ({ s with engine := .idle } : State).OutputLaw := h.same rfl rfl rfl
  have key : ∀ k r e, ((({ s with engine := .idle } : State).applyRecord k r).commit e).OutputLaw := fun k r e =>
    (hi.applyRecord k r).commit e
  unfold State.endDrain
  split
  · split
    · split
      · exact h
      · exact key _ _ _
    · split
      · exact h
      · exact key _ _ _
    · split
      · exact h.same rfl rfl rfl
      · exact h
    · exact h
  · exact h

theorem afterOff (h : s.OutputLaw) : s.afterOff.OutputLaw := h.endDrain.closeIfOff

theorem trip : s.trip.OutputLaw := by
  unfold State.trip
  refine State.OutputLaw.afterOff ⟨?_, State.onAirLaw_of_off fun k => State.forceOff_off _ k⟩
  unfold State.AmplifierLaw
  rw [State.forceOff_out]
  rfl

theorem enterWarmUp (h : ∀ k, (s.slot k).ramp.state = .off) : s.enterWarmUp.OutputLaw :=
  ⟨s.amplifierLaw_enterWarmUp, State.OnAirLaw.enterWarmUp h⟩

theorem setTx (h : ∀ k, (s.slot k).ramp.state = .off) (t : TxState) : (s.setTx t).OutputLaw :=
  ⟨s.amplifierLaw_setTx t, State.OnAirLaw.setTx_of_off h t⟩

theorem leaveTripped (h : s.OutputLaw) (hs : s.out.state = .tripped) : s.leaveTripped.OutputLaw := by
  have off := h.air.off (by rw [hs]; decide) fun t => by rw [hs]; nofun
  unfold State.leaveTripped
  split
  · exact enterWarmUp off
  · exact setTx off _

theorem changeLevel (h : s.OutputLaw) (l : Protection) : (s.changeLevel l).OutputLaw := by
  have h0 : (({ s with out := { s.out with level := l } } : State).latchBoth .protection).formBudget.OutputLaw :=
    h.same rfl rfl rfl
  have h' := h0.govern
  unfold State.changeLevel
  simp only
  split
  · split
    · exact trip
    · exact h'
  · split
    · rename_i hl; exact h'.leaveTripped (by simpa using hl.2)
    · exact h'

theorem txEnableWritten (h : s.OutputLaw) (v : Bool) : (s.txEnableWritten v).OutputLaw := by
  unfold State.txEnableWritten
  split
  · exact h
  · split
    · exact h.txEnabled
    · exact h.txDisabled

theorem carryOut (h : s.OutputLaw) (e : Entry) (hc : e.change = .clearLockout → s.out.state = .lockout) :
    (s.carryOut e).OutputLaw := by
  have hd : ({ s with engine := .draining e } : State).OutputLaw := h.same rfl rfl rfl
  have slotChange : ∀ k r, (s.takeSlotChange e k r).OutputLaw := fun k r => by
    unfold State.takeSlotChange
    split
    · exact ((hd.modSlot (k := k) (f := fun x => { x with retuning := true }) rfl).reformSlot k).afterOff
    · exact (h.applyRecord k r).commit e
  unfold State.carryOut
  split
  · exact slotChange _ _
  · exact slotChange _ _
  · exact (State.OutputLaw.govern (h.modSlot rfl)).commit e
  · exact State.OutputLaw.commit (h.modSlot rfl) e
  · rename_i k v _
    have h' := ((h.modSlot (k := k) (f := fun x => { x with record := { x.record with enabled := v } }) rfl).reformSlot k).formQuiet
    refine State.OutputLaw.commit ?_ e
    unfold State.applyEnable
    simp only
    split
    · exact h'.wake
    · exact h'
  · refine State.OutputLaw.commit ?_ e
    unfold State.applyParams
    exact State.OutputLaw.measureQuiet (State.OutputLaw.govern (by exact h.same rfl rfl rfl))
  · refine State.OutputLaw.commit ?_ e
    unfold State.applyTransmit
    exact State.OutputLaw.txEnableWritten (by exact h.same rfl rfl rfl) _
  · unfold State.takeLoad
    refine State.OutputLaw.afterOff (State.OutputLaw.reformAll (hd.of_ramps (by simp) fun k => ?_))
    rw [State.slot_mapSlots]
  · rename_i he
    have hs := hc he
    have off := h.air.off (by rw [hs]; decide) fun t => by rw [hs]; nofun
    have h' : (({ s with out := { s.out with trips := [] } } : State).setTx .offAir).OutputLaw :=
      State.OutputLaw.setTx (s := { s with out := { s.out with trips := [] } }) off _
    refine State.OutputLaw.commit ?_ e
    unfold State.applyClearLockout
    simp only
    split
    · exact enterWarmUp (s := ({ s with out := { s.out with trips := [] } } : State).setTx .offAir) off
    · exact h'

theorem takeKind (h : s.OutputLaw) (kind : ChangeKind) : (s.takeKind kind).OutputLaw := by
  unfold State.takeKind
  split
  · split
    · unfold State.takeEntry
      split
      · exact h.same rfl rfl rfl
      · split
        · exact h.same rfl rfl rfl
        · rename_i ht
          exact State.OutputLaw.carryOut (by exact h.same rfl rfl rfl) _ fun hc => State.lockout_of_test ht hc
    · exact h
  · exact h

theorem loadImage (h : s.OutputLaw) (img : PlanImage) : (s.loadImage img).OutputLaw := by
  obtain ⟨u, _, hu, ho, _, he, _⟩ := s.loadImage_frame img
  have hb : u.formBudget.OutputLaw := h.of_ramps (by rw [State.formBudget_out, ho]) fun k => by
    rw [State.slot_formBudget, ← hu, State.slot_imaged]; rfl
  rw [he]
  exact hb.reformAll.measureQuiet

theorem endBoot (h : s.OutputLaw) (r : BootResult) : (s.endBoot r).OutputLaw := by
  unfold State.endBoot
  exact State.OutputLaw.txEnableWritten (by exact h.same rfl rfl rfl) _

theorem endRead (h : s.OutputLaw) : s.endRead.OutputLaw := by
  have h0 : ({ s with store := s.store.endRead } : State).OutputLaw := h.same rfl rfl rfl
  unfold State.endRead
  split
  · simp only
    split
    · unfold State.completeLoad
      exact State.OutputLaw.txEnableWritten ((h0.loadImage _).commit _) _
    · have key : ∀ img, (State.completeBoot { s with store := s.store.endRead } img).OutputLaw := fun img => by
        unfold State.completeBoot
        have h1 : ({ State.loadImage { s with store := s.store.endRead } img with generation := s.generation + 1 } : State).OutputLaw :=
          State.OutputLaw.same (h0.loadImage img) rfl rfl rfl
        exact h1.endBoot _
      exact key _
    · exact h
  · exact h

theorem endOfReset (h : s.OutputLaw) (hi lo : Bool) : (s.endOfReset hi lo).OutputLaw := by
  have h' : (s.released hi lo).OutputLaw :=
    ⟨h.amplifier.of_out (by simp) (by simp), h.air.of_same (by simp) fun k => by rw [State.released_slot_ramp]⟩
  rw [State.endOfReset_eq]
  rcases (s.released hi lo).bootDecision_cases with ⟨_, e⟩ | ⟨_, _, _, e⟩ | ⟨_, _, _, e⟩ | ⟨_, _, _, _, e⟩ <;> rw [e]
  · exact h'.endBoot _
  · exact h'.endBoot _
  · exact h'.endBoot _
  · exact h'.same rfl rfl rfl

theorem setHold (h : s.OutputLaw) (p : Port) (v : Bool) : (s.setHold p v).OutputLaw := by
  have h0 : ({ s with out := { s.out with hold := s.out.hold.put p v } } : State).OutputLaw := h.same rfl rfl rfl
  unfold State.setHold
  simp only
  split
  · exact h0
  · exact h0.reformAll.formQuiet

theorem rampStepEvent (h : s.OutputLaw) (k : SlotIx) : (s.rampStepEvent k).OutputLaw := by
  have h' : (s.modSlot k fun x => { x with ramp := x.ramp.advance s.wide.rampStep }.formShare).OutputLaw := by
    refine ⟨h.amplifier, fun j hj => h.air j ?_⟩
    rw [State.slot_modSlot] at hj
    split at hj
    · rename_i hk
      subst hk
      by_contra hn
      have off : (s.slot j).ramp.state = .off := by simpa [Slot.transmitting] using hn
      simp [Slot.transmitting, Slot.formShare, Ramp.advance, off] at hj
    · exact hj
  unfold State.rampStepEvent
  simp only
  split
  · exact h'.govern.afterOff
  · exact h'

theorem expireHoldOff (h : s.OutputLaw) (k : SlotIx) : (s.expireHoldOff k).OutputLaw := by
  unfold State.expireHoldOff
  simp only
  split
  · exact h.applySelection _ _
  · exact h.putSlot rfl

theorem measure (h : s.OutputLaw) (k : SlotIx) (n : PathName) (d : Int) : (s.measure k n d).OutputLaw := by
  cases hv : s.measured k n d with
  | none => rw [State.measure_none hv]; exact h
  | some v =>
    rw [State.measure_some hv]
    have h' : (s.putSlot k ((s.slot k).putPath n v)).OutputLaw := h.putSlot (by simp)
    split
    · exact h'
    · exact h'.applySelection _ _

theorem measureSlot (h : s.OutputLaw) (k : SlotIx) (d : Delivered) : (s.measureSlot k d).OutputLaw := by
  unfold State.measureSlot
  split
  · exact (h.measure _ _ _).measure _ _ _
  · exact (h.measure _ _ _).measure _ _ _

theorem unlockSlot (h : s.OutputLaw) (f : Feed) (k : SlotIx) : (s.unlockSlot f k).OutputLaw := by
  rw [State.unlockSlot_eq]
  split
  · exact State.OutputLaw.applySelection (h.putSlot (Slot.unlocked_ramp _ _)) _ _
  · exact h

theorem lostMarker (h : s.OutputLaw) (f : Feed) : (s.lostMarker f).OutputLaw := by
  have hm := s.moveReceiver_slots f (s.receiver f).badMarker
  have h' : (s.moveReceiver f (s.receiver f).badMarker).OutputLaw := h.same hm.1 (by rw [hm.2.1]) (by rw [hm.2.1])
  unfold State.lostMarker
  simp only
  split
  · exact h'
  · exact State.sweep_keeps (P := State.OutputLaw) (g := fun u k => u.unlockSlot f k)
      (fun u k hu => State.OutputLaw.unlockSlot hu f k) _ _ h'

theorem monitor (h : s.OutputLaw) (v : Levels) : (s.monitor v).OutputLaw :=
  State.sweep_keeps (P := State.OutputLaw) (g := fun u k => u.measureSlot k v[k.val])
    (fun u k hu => State.OutputLaw.measureSlot hu k _) _ { s with monitorIn := 10 } (h.same rfl rfl rfl)

end State.OutputLaw

/-! ## The trip history -/

namespace State.TripLaw

variable {s : State}

theorem same {t : State} (h : s.TripLaw) (ht : t.out.trips = s.out.trips) (hs : t.out.state = s.out.state) : t.TripLaw :=
  h.of_same ht fun hl => hs.trans hl

theorem formQuiet (h : s.TripLaw) : s.formQuiet.TripLaw := h.same (by simp) (by simp)

theorem govern (h : s.TripLaw) : s.govern.TripLaw := h.same (by simp) (by simp)

theorem reformAll (h : s.TripLaw) : s.reformAll.TripLaw := h.same (by simp) (by simp)

theorem reformSlot (h : s.TripLaw) (k : SlotIx) : (s.reformSlot k).TripLaw := h.same (by simp) (by simp)

theorem closeIfOff (h : s.TripLaw) : s.closeIfOff.TripLaw :=
  h.of_same s.airFrame_closeIfOff.trips fun hs => by rw [State.lockout_closeIfOff hs]; exact hs

theorem txEnabled (h : s.TripLaw) : s.txEnabled.TripLaw :=
  h.of_same s.airFrame_txEnabled.trips fun hs => by rw [State.lockout_txEnabled hs]; exact hs

theorem txDisabled (h : s.TripLaw) : s.txDisabled.TripLaw :=
  h.of_same s.airFrame_txDisabled.trips fun hs => by rw [State.lockout_txDisabled hs]; exact hs

theorem wake (h : s.TripLaw) : s.wake.TripLaw :=
  h.of_same s.airFrame_wake.trips fun hs => by rw [State.lockout_wake hs]; exact hs

theorem quietExpired (h : s.TripLaw) : s.quietExpired.TripLaw :=
  h.of_same s.airFrame_quietExpired.trips fun hs => by rw [State.lockout_quietExpired hs]; exact hs

theorem measureQuiet (h : s.TripLaw) : s.measureQuiet.TripLaw :=
  h.of_same s.airFrame_measureQuiet.trips fun hs => State.lockout_measureQuiet hs

theorem commit (h : s.TripLaw) (e : Entry) : (s.commit e).TripLaw := h.same rfl rfl

theorem applyRecord (h : s.TripLaw) (k : SlotIx) (r : SlotRecord) : (s.applyRecord k r).TripLaw := by
  have h2 : ((s.modSlot k fun x => x.start r).latchSource k).TripLaw := h.same rfl rfl
  unfold State.applyRecord
  simp only
  split
  · exact (h2.reformSlot k).formQuiet
  · exact (State.TripLaw.reformSlot (s := s.modSlot k fun x => x.start r) (h.same rfl rfl) k).formQuiet

theorem endDrain (h : s.TripLaw) : s.endDrain.TripLaw := by
  have hi : ({ s with engine := .idle } : State).TripLaw := h.same rfl rfl
  have key : ∀ k r e, ((({ s with engine := .idle } : State).applyRecord k r).commit e).TripLaw := fun k r e =>
    (hi.applyRecord k r).commit e
  unfold State.endDrain
  split
  · split
    · split
      · exact h
      · exact key _ _ _
    · split
      · exact h
      · exact key _ _ _
    · split
      · exact h.same rfl rfl
      · exact h
    · exact h
  · exact h

theorem afterOff (h : s.TripLaw) : s.afterOff.TripLaw := h.endDrain.closeIfOff

/-- A trip joins a history of at most two: a third one means LOCKOUT (R129). -/
theorem trip (h : s.out.trips.length ≤ 2) : s.trip.TripLaw := by
  unfold State.trip
  refine State.TripLaw.afterOff (State.TripLaw.same (s := State.setTx { s with out := { s.out with trips := s.out.trips ++ [s.now] } }
    (if 3 ≤ (s.out.trips ++ [s.now]).length then .lockout else .tripped)) ?_ (by rw [State.forceOff_out]) (by rw [State.forceOff_out]))
  refine ⟨?_, fun h3 => ?_⟩
  · simp only [State.setTx_out, List.length_append, List.length_singleton]; omega
  · simp only [State.setTx_out] at h3 ⊢
    rw [if_pos (by omega)]

theorem leaveTripped (h : s.TripLaw) (hs : s.out.state = .tripped) : s.leaveTripped.TripLaw := by
  have hl : s.out.state ≠ .lockout := by rw [hs]; decide
  unfold State.leaveTripped
  split
  · exact h.of_same s.airFrame_enterWarmUp.trips fun he => absurd he hl
  · exact h.of_same (s.airFrame_setTx _).trips fun he => absurd he hl

theorem changeLevel (h : s.TripLaw) (l : Protection) : (s.changeLevel l).TripLaw := by
  have h0 : (({ s with out := { s.out with level := l } } : State).latchBoth .protection).formBudget.TripLaw := h.same rfl rfl
  have h' := h0.govern
  unfold State.changeLevel
  simp only
  split
  · split
    · rename_i ha
      refine trip ?_
      rw [State.govern_out]
      show s.out.trips.length ≤ 2
      have : s.out.trips.length ≠ 3 := fun h3 => by rw [h.2 h3] at ha; exact absurd ha (by decide)
      have := h.1
      omega
    · exact h'
  · split
    · rename_i hl; exact h'.leaveTripped (by simpa using hl.2)
    · exact h'

theorem txEnableWritten (h : s.TripLaw) (v : Bool) : (s.txEnableWritten v).TripLaw := by
  unfold State.txEnableWritten
  split
  · exact h
  · split
    · exact h.txEnabled
    · exact h.txDisabled

theorem of_empty (h : s.out.trips = []) : s.TripLaw := by
  unfold State.TripLaw; rw [h]; exact ⟨by simp, nofun⟩

theorem carryOut (h : s.TripLaw) (e : Entry) : (s.carryOut e).TripLaw := by
  have hd : ({ s with engine := .draining e } : State).TripLaw := h.same rfl rfl
  have slotChange : ∀ k r, (s.takeSlotChange e k r).TripLaw := fun k r => by
    have hm : (({ s with engine := .draining e } : State).modSlot k fun x => { x with retuning := true }).TripLaw :=
      hd.same rfl rfl
    unfold State.takeSlotChange
    split
    · exact (hm.reformSlot k).afterOff
    · exact (h.applyRecord k r).commit e
  unfold State.carryOut
  split
  · exact slotChange _ _
  · exact slotChange _ _
  · refine State.TripLaw.commit ?_ e
    unfold State.applyPower
    exact State.TripLaw.govern (by exact h.same rfl rfl)
  · refine State.TripLaw.commit ?_ e
    unfold State.applyThresholds
    exact h.same rfl rfl
  · rename_i k v _
    have hm : (s.modSlot k fun x => { x with record := { x.record with enabled := v } }).TripLaw := h.same rfl rfl
    have h' := (hm.reformSlot k).formQuiet
    refine State.TripLaw.commit ?_ e
    unfold State.applyEnable
    simp only
    split
    · exact h'.wake
    · exact h'
  · refine State.TripLaw.commit ?_ e
    unfold State.applyParams
    exact State.TripLaw.measureQuiet (State.TripLaw.govern (by exact h.same rfl rfl))
  · refine State.TripLaw.commit ?_ e
    unfold State.applyTransmit
    exact State.TripLaw.txEnableWritten (by exact h.same rfl rfl) _
  · unfold State.takeLoad
    refine State.TripLaw.afterOff (State.TripLaw.reformAll (hd.same (by simp) (by simp)))
  · refine State.TripLaw.commit ?_ e
    unfold State.applyClearLockout
    simp only
    split
    · exact of_empty (State.airFrame_enterWarmUp _).trips
    · exact of_empty rfl

theorem takeKind (h : s.TripLaw) (kind : ChangeKind) : (s.takeKind kind).TripLaw := by
  unfold State.takeKind
  split
  · split
    · unfold State.takeEntry
      split
      · exact h.same rfl rfl
      · split
        · exact h.same rfl rfl
        · exact State.TripLaw.carryOut (by exact h.same rfl rfl) _
    · exact h
  · exact h

theorem loadImage (h : s.TripLaw) (img : PlanImage) : (s.loadImage img).TripLaw := by
  obtain ⟨u, _, _, ho, _, he, _⟩ := s.loadImage_frame img
  have hb : u.formBudget.TripLaw := h.same (by rw [State.formBudget_out, ho]) (by rw [State.formBudget_out, ho])
  rw [he]
  exact hb.reformAll.measureQuiet

theorem endBoot (h : s.TripLaw) (r : BootResult) : (s.endBoot r).TripLaw := by
  unfold State.endBoot
  exact State.TripLaw.txEnableWritten (by exact h.same rfl rfl) _

theorem endRead (h : s.TripLaw) : s.endRead.TripLaw := by
  have h0 : ({ s with store := s.store.endRead } : State).TripLaw := h.same rfl rfl
  unfold State.endRead
  split
  · simp only
    split
    · unfold State.completeLoad
      exact State.TripLaw.txEnableWritten ((h0.loadImage _).commit _) _
    · have key : ∀ img, (State.completeBoot { s with store := s.store.endRead } img).TripLaw := fun img => by
        unfold State.completeBoot
        have h1 : ({ State.loadImage { s with store := s.store.endRead } img with generation := s.generation + 1 } : State).TripLaw :=
          State.TripLaw.same (h0.loadImage img) rfl rfl
        exact h1.endBoot _
      exact key _
    · exact h
  · exact h

theorem endOfReset (h : s.TripLaw) (hi lo : Bool) : (s.endOfReset hi lo).TripLaw := by
  have h' : (s.released hi lo).TripLaw := h.same (by simp) (by simp)
  rw [State.endOfReset_eq]
  rcases (s.released hi lo).bootDecision_cases with ⟨_, e⟩ | ⟨_, _, _, e⟩ | ⟨_, _, _, e⟩ | ⟨_, _, _, _, e⟩ <;> rw [e]
  · exact h'.endBoot _
  · exact h'.endBoot _
  · exact h'.endBoot _
  · exact h'.same rfl rfl

theorem setHold (h : s.TripLaw) (p : Port) (v : Bool) : (s.setHold p v).TripLaw := by
  have h0 : ({ s with out := { s.out with hold := s.out.hold.put p v } } : State).TripLaw := h.same rfl rfl
  unfold State.setHold
  simp only
  split
  · exact h0
  · exact h0.reformAll.formQuiet

theorem rampStepEvent (h : s.TripLaw) (k : SlotIx) : (s.rampStepEvent k).TripLaw := by
  have h' : (s.modSlot k fun x => { x with ramp := x.ramp.advance s.wide.rampStep }.formShare).TripLaw := h.same rfl rfl
  unfold State.rampStepEvent
  simp only
  split
  · exact h'.govern.afterOff
  · exact h'

theorem expireHoldOff (h : s.TripLaw) (k : SlotIx) : (s.expireHoldOff k).TripLaw := by
  unfold State.expireHoldOff
  simp only
  split
  · exact h.applySelection _ _
  · exact h.same rfl rfl

theorem measure (h : s.TripLaw) (k : SlotIx) (n : PathName) (d : Int) : (s.measure k n d).TripLaw := by
  cases hv : s.measured k n d with
  | none => rw [State.measure_none hv]; exact h
  | some v =>
    rw [State.measure_some hv]
    have h' : (s.putSlot k ((s.slot k).putPath n v)).TripLaw := h.same rfl rfl
    split
    · exact h'
    · exact h'.applySelection _ _

theorem measureSlot (h : s.TripLaw) (k : SlotIx) (d : Delivered) : (s.measureSlot k d).TripLaw := by
  unfold State.measureSlot
  split
  · exact (h.measure _ _ _).measure _ _ _
  · exact (h.measure _ _ _).measure _ _ _

theorem unlockSlot (h : s.TripLaw) (f : Feed) (k : SlotIx) : (s.unlockSlot f k).TripLaw := by
  rw [State.unlockSlot_eq]
  split
  · exact State.TripLaw.applySelection (by exact h.same rfl rfl) _ _
  · exact h

theorem lostMarker (h : s.TripLaw) (f : Feed) : (s.lostMarker f).TripLaw := by
  have hm := s.moveReceiver_slots f (s.receiver f).badMarker
  have h' : (s.moveReceiver f (s.receiver f).badMarker).TripLaw := h.same (by rw [hm.2.1]) (by rw [hm.2.1])
  unfold State.lostMarker
  simp only
  split
  · exact h'
  · exact State.sweep_keeps (P := State.TripLaw) (g := fun u k => u.unlockSlot f k)
      (fun u k hu => State.TripLaw.unlockSlot hu f k) _ _ h'

theorem monitor (h : s.TripLaw) (v : Levels) : (s.monitor v).TripLaw :=
  State.sweep_keeps (P := State.TripLaw) (g := fun u k => u.measureSlot k v[k.val])
    (fun u k hu => State.TripLaw.measureSlot hu k _) _ { s with monitorIn := 10 } (h.same rfl rfl)

end State.TripLaw

end Sys2Proof.Machine
end

