-- ==== Sys2Proof/Laws/HeardLaws.lean ====
section
/-! SUPPORT. The four laws of what a slot hears through the operations that the monitor and the selector do not make. -/

namespace Sys2Proof.Machine

namespace State.HeardLaw

variable {s : State}

theorem putSlot (h : s.HeardLaw) {k : SlotIx} {x : Slot} (hx : x.HeardLawful) : (s.putSlot k x).HeardLaw := fun j => by
  by_cases hj : j = k
  · subst hj; rw [State.slot_putSlot_self]; exact hx
  · rw [State.slot_putSlot_of_ne s hj]; exact h j

/-- A slot whose paths, selection and two fields of the record stay. -/
theorem modSlot (h : s.HeardLaw) {k : SlotIx} {f : Slot → Slot} (hl : (s.slot k).SameListening (f (s.slot k)))
    (hr : (f (s.slot k)).record.fallback.isSome = (s.slot k).record.fallback.isSome)
    (ha : (f (s.slot k)).record.lossAction = (s.slot k).record.lossAction) : (s.modSlot k f).HeardLaw :=
  h.putSlot ((h k).of_same hl hr ha)

theorem commit (h : s.HeardLaw) (e : Entry) : (s.commit e).HeardLaw := h.same rfl

theorem applyRecord (h : s.HeardLaw) (k : SlotIx) (r : SlotRecord) : (s.applyRecord k r).HeardLaw := by
  have h' : (s.modSlot k fun x => x.start r).HeardLaw := h.putSlot (Slot.heardLawful_start _ _)
  have h2 : ((s.modSlot k fun x => x.start r).latchSource k).HeardLaw := h'.same rfl
  unfold State.applyRecord
  simp only
  split
  · exact ((State.airFrame_reformSlot _ k).trans (State.airFrame_formQuiet _)).heardLaw h2
  · exact ((State.airFrame_reformSlot _ k).trans (State.airFrame_formQuiet _)).heardLaw h'

theorem endDrain (h : s.HeardLaw) : s.endDrain.HeardLaw := by
  have hi : ({ s with engine := .idle } : State).HeardLaw := h.same rfl
  have key : ∀ k r e, ((({ s with engine := .idle } : State).applyRecord k r).commit e).HeardLaw := fun k r e =>
    (hi.applyRecord k r).commit e
  unfold State.endDrain
  split
  · split
    · split
      · exact h
      · exact key _ _ _
    · split
      · exact h
      · exact key _ _ _
    · split
      · exact h.same rfl
      · exact h
    · exact h
  · exact h

theorem afterOff (h : s.HeardLaw) : s.afterOff.HeardLaw := (State.airFrame_closeIfOff _).heardLaw h.endDrain

theorem trip (h : s.HeardLaw) : s.trip.HeardLaw := by
  unfold State.trip
  refine State.HeardLaw.afterOff ?_
  exact ((State.airFrame_setTx _ _).trans (State.airFrame_forceOff _)).heardLaw (by exact h.same rfl)

theorem changeLevel (h : s.HeardLaw) (l : Protection) : (s.changeLevel l).HeardLaw := by
  have h0 : (({ s with out := { s.out with level := l } } : State).latchBoth .protection).formBudget.HeardLaw := h.same rfl
  have h' := (State.airFrame_govern _).heardLaw h0
  unfold State.changeLevel
  simp only
  split
  · split
    · exact h'.trip
    · exact h'
  · split
    · unfold State.leaveTripped
      split
      · exact (State.airFrame_enterWarmUp _).heardLaw h'
      · exact (State.airFrame_setTx _ _).heardLaw h'
    · exact h'

theorem txEnableWritten (h : s.HeardLaw) (v : Bool) : (s.txEnableWritten v).HeardLaw := by
  unfold State.txEnableWritten
  split
  · exact h
  · split
    · exact s.airFrame_txEnabled.heardLaw h
    · exact s.airFrame_txDisabled.heardLaw h

theorem carryOut (h : s.HeardLaw) (e : Entry) : (s.carryOut e).HeardLaw := by
  have hd : ({ s with engine := .draining e } : State).HeardLaw := h.same rfl
  have slotChange : ∀ k r, (s.takeSlotChange e k r).HeardLaw := fun k r => by
    have hm : (({ s with engine := .draining e } : State).modSlot k fun x => { x with retuning := true }).HeardLaw :=
      hd.modSlot ⟨rfl, rfl, rfl⟩ rfl rfl
    unfold State.takeSlotChange
    split
    · exact afterOff ((State.airFrame_reformSlot _ k).heardLaw hm)
    · exact (h.applyRecord k r).commit e
  unfold State.carryOut
  split
  · exact slotChange _ _
  · exact slotChange _ _
  · rename_i k p _
    have hm : (s.modSlot k fun x => { x with record := { x.record with power := p } }).HeardLaw :=
      h.modSlot ⟨rfl, rfl, rfl⟩ rfl rfl
    exact State.HeardLaw.commit ((State.airFrame_govern _).heardLaw hm) e
  · rename_i k t y l r _
    refine State.HeardLaw.commit ?_ e
    unfold State.applyThresholds
    obtain ⟨h1, h2, h3, h4⟩ := h k
    refine h.putSlot ⟨h1, h2, h3, fun n => ?_⟩
    cases n
    · exact h4 .primary
    · exact h4 .fallback
  · rename_i k v _
    have hm : (s.modSlot k fun x => { x with record := { x.record with enabled := v } }).HeardLaw :=
      h.modSlot ⟨rfl, rfl, rfl⟩ rfl rfl
    have h' := ((State.airFrame_reformSlot _ k).trans (State.airFrame_formQuiet _)).heardLaw hm
    refine State.HeardLaw.commit ?_ e
    unfold State.applyEnable
    simp only
    split
    · exact (State.airFrame_wake _).heardLaw h'
    · exact h'
  · refine State.HeardLaw.commit ?_ e
    unfold State.applyParams
    exact ((State.airFrame_govern _).trans (State.airFrame_measureQuiet _)).heardLaw (by exact h.same rfl)
  · refine State.HeardLaw.commit ?_ e
    unfold State.applyTransmit
    exact State.HeardLaw.txEnableWritten (by exact h.same rfl) _
  · unfold State.takeLoad
    refine State.HeardLaw.afterOff ((State.airFrame_reformAll _).heardLaw (hd.of_slots (fun k => ?_) fun k => ?_))
    · rw [State.slot_mapSlots]; exact ⟨rfl, rfl, rfl⟩
    · rw [State.slot_mapSlots]; exact ⟨rfl, rfl⟩
  · refine State.HeardLaw.commit ?_ e
    unfold State.applyClearLockout
    simp only
    split
    · exact ((State.airFrame_setTx _ _).trans (State.airFrame_enterWarmUp _)).heardLaw (by exact h.same rfl)
    · exact (State.airFrame_setTx _ _).heardLaw (by exact h.same rfl)

theorem takeKind (h : s.HeardLaw) (kind : ChangeKind) : (s.takeKind kind).HeardLaw := by
  unfold State.takeKind
  split
  · split
    · unfold State.takeEntry
      split
      · exact h.same rfl
      · split
        · exact h.same rfl
        · exact State.HeardLaw.carryOut (by exact h.same rfl) _
    · exact h
  · exact h

theorem loadImage (s : State) (img : PlanImage) : (s.loadImage img).HeardLaw := fun k => by
  have h := s.loadImage_slot img k
  exact (Slot.heardLawful_start (s.slot k) img.records[k.val]).of_same h.2 (by rw [h.1.1]; rfl) (by rw [h.1.1]; rfl)

theorem endBoot (h : s.HeardLaw) (r : BootResult) : (s.endBoot r).HeardLaw := by
  unfold State.endBoot
  exact State.HeardLaw.txEnableWritten (by exact h.same rfl) _

theorem endRead (h : s.HeardLaw) : s.endRead.HeardLaw := by
  unfold State.endRead
  split
  · simp only
    split
    · unfold State.completeLoad
      exact State.HeardLaw.txEnableWritten (State.HeardLaw.commit (State.HeardLaw.loadImage _ _) _) _
    · have key : ∀ img, (State.completeBoot { s with store := s.store.endRead } img).HeardLaw := fun img => by
        unfold State.completeBoot
        have h1 : ({ State.loadImage { s with store := s.store.endRead } img with generation := s.generation + 1 } : State).HeardLaw :=
          State.HeardLaw.same (State.HeardLaw.loadImage { s with store := s.store.endRead } img) rfl
        exact h1.endBoot _
      exact key _
    · exact h
  · exact h

theorem endOfReset (h : s.HeardLaw) (hi lo : Bool) : (s.endOfReset hi lo).HeardLaw := by
  have h' : (s.released hi lo).HeardLaw := (State.airFrame_govern _).heardLaw (by exact h.same rfl)
  rw [State.endOfReset_eq]
  rcases (s.released hi lo).bootDecision_cases with ⟨_, e⟩ | ⟨_, _, _, e⟩ | ⟨_, _, _, e⟩ | ⟨_, _, _, _, e⟩ <;> rw [e]
  · exact h'.endBoot _
  · exact h'.endBoot _
  · exact h'.endBoot _
  · exact h'.same rfl

theorem setHold (h : s.HeardLaw) (p : Port) (v : Bool) : (s.setHold p v).HeardLaw := by
  have h0 : ({ s with out := { s.out with hold := s.out.hold.put p v } } : State).HeardLaw := h.same rfl
  unfold State.setHold
  simp only
  split
  · exact h0
  · exact ((State.airFrame_reformAll _).trans (State.airFrame_formQuiet _)).heardLaw h0

theorem rampStepEvent (h : s.HeardLaw) (k : SlotIx) : (s.rampStepEvent k).HeardLaw := by
  have h' : (s.modSlot k fun x => { x with ramp := x.ramp.advance s.wide.rampStep }.formShare).HeardLaw :=
    h.modSlot ⟨rfl, rfl, rfl⟩ rfl rfl
  unfold State.rampStepEvent
  simp only
  split
  · exact State.HeardLaw.afterOff ((State.airFrame_govern _).heardLaw h')
  · exact h'

theorem expireHoldOff (h : s.HeardLaw) (k : SlotIx) : (s.expireHoldOff k).HeardLaw := by
  have hk := h k
  unfold State.expireHoldOff
  simp only
  split
  · rename_i n _ hn
    refine State.heardLaw_applySelection h ⟨Slot.selectionLawful_take hn, Slot.fallbackLawful_take hn, Slot.contentLawful_select _ _,
      fun m => ?_⟩
    cases m
    · exact hk.level .primary
    · exact hk.level .fallback
  · rename_i hn
    refine h.putSlot ⟨⟨fun hl => ?_, fun u hu => ?_⟩, hk.fallback, hk.content, hk.level⟩
    · exact ⟨(hk.selection.1 hl).1, (hk.selection.1 hl).2.1, rfl⟩
    · obtain ⟨h1, h2, h3, _⟩ := hk.selection.2 u hu
      refine ⟨h1, h2, h3, fun hp => ?_⟩
      obtain ⟨n, hpn⟩ := Option.isSome_iff_exists.mp h2
      exact absurd hpn (hn n hp)

theorem lostMarker (h : s.HeardLaw) (f : Feed) : (s.lostMarker f).HeardLaw := by
  have h' : (s.moveReceiver f (s.receiver f).badMarker).HeardLaw := h.same (s.moveReceiver_slots f _).1
  unfold State.lostMarker
  simp only
  split
  · exact h'
  · exact State.sweep_keeps (P := State.HeardLaw) (g := fun u k => u.unlockSlot f k)
      (fun u k hu => State.HeardLaw.unlockSlot hu f k) _ _ h'

theorem monitor (h : s.HeardLaw) (v : Levels) : (s.monitor v).HeardLaw :=
  State.sweep_keeps (P := State.HeardLaw) (g := fun u k => u.measureSlot k v[k.val])
    (fun u k hu => State.HeardLaw.measureSlot hu k _) _ { s with monitorIn := 10 } (h.same rfl)

theorem tick (h : s.HeardLaw) : s.tick.HeardLaw := fun k => by
  obtain ⟨⟨h1, h2⟩, hf, hc, hv⟩ := h k
  rw [State.slot_tick]
  refine ⟨⟨fun hl => ⟨(h1 hl).1, (h1 hl).2.1, ?_⟩, fun u hu => ?_⟩, hf, hc, hv⟩
  · simp [countDown, (h1 hl).2.2]
  · obtain ⟨a, b, c, d⟩ := h2 u hu
    exact ⟨a, b, c, fun hp => by simpa [countDown] using d hp⟩

end State.HeardLaw

end Sys2Proof.Machine
end

