-- ==== Sys2Proof/Laws/Words.lean ====
section
/-! SUPPORT. For each word of the statements, the operation that it describes: what the operation does is what the word says. -/

namespace Sys2Proof.Machine

/-! ## Records and slots -/

theorem nearestIn_clampInt {lo hi : Int} (h : lo ≤ hi) (n : Int) : NearestIn lo hi n (clampInt lo hi n) := by
  refine ⟨fun _ => ?_, fun _ => ?_, fun _ _ => ?_⟩ <;> unfold clampInt <;> omega

theorem nearestIn_clampNat {lo hi : Nat} (h : lo ≤ hi) (n : Nat) : NearestIn lo hi n (clampNat lo hi n) := by
  refine ⟨fun _ => ?_, fun _ => ?_, fun _ _ => ?_⟩ <;> unfold clampNat <;> omega

/-- Clamping sets each of the five fields to the nearer bound of its range, and leaves the others (R38). -/
theorem clampedRecord_clampRecord (r : SlotRecord) : ClampedRecord r (clampRecord r) := by
  refine ⟨rfl, ?_, nearestIn_clampInt (by decide) _, nearestIn_clampNat (by decide) _, nearestIn_clampNat (by decide) _,
    nearestIn_clampNat (by decide) _⟩
  refine ⟨fun _ => ?_, fun _ => ?_, fun _ _ => ?_⟩ <;> simp only [clampRecord] <;> omega

theorem Slot.startedAfresh_start (x : Slot) (r : SlotRecord) : StartedAfresh r (x.start r) := by
  refine ⟨rfl, rfl, rfl, rfl, ?_, rfl⟩
  simp [Slot.start, Selector.rest, contentOf]

theorem Slot.rests_iff (x : Slot) : x.Rests ↔ x = Slot.rest := Iff.rfl

theorem wordsOf_rest : wordsOf .rest = ⟨0, 0, 0⟩ := rfl

theorem wordsOf_of_unassigned {r : SlotRecord} (h : r.assigned = false) : wordsOf r = ⟨0, 0, 0⟩ := by
  simp [wordsOf, h]

theorem wordsOf_fallback_of_none {r : SlotRecord} (h : r.fallback = none) : (wordsOf r).fallback = 0 := by
  cases hr : r.assigned <;> simp [wordsOf, h, hr]

/-- A slot that is OFF, granted nothing, rests once the rest record is applied to it. -/
theorem Slot.rests_start {x : Slot} (hr : x.ramp = .rest) (hg : x.grant = 0) (hs : x.share = 0) : (x.start .rest).Rests := by
  rw [Slot.rests_iff]
  simp only [Slot.start, hr, hg, hs]
  rfl

/-! ## The selection -/

theorem Slot.prefers_iff (x : Slot) (n : Option PathName) : x.Prefers n ↔ x.preferred = n := by
  have h : ∀ q : Quality, q ≠ .good ↔ q = .bad := fun q => by cases q <;> decide
  unfold Slot.preferred
  by_cases hp : x.primary.quality = .good
  · rcases n with _ | _ | _ <;> simp [Slot.Prefers, hp]
  · have hb := (h _).mp hp
    by_cases hf : x.fallback.quality = .good
    · cases hr : x.record.fallback <;> rcases n with _ | _ | _ <;> simp [Slot.Prefers, hb, hf, hr]
    · have hfb := (h _).mp hf
      cases hr : x.record.fallback <;> rcases n with _ | _ | _ <;> simp [Slot.Prefers, hb, hfb, hr]

theorem holdOffStarted_startHoldOff (holdOff : Nat) : HoldOffStarted holdOff (startHoldOff holdOff) := by
  unfold HoldOffStarted startHoldOff
  exact ⟨fun h => if_pos h, fun h => if_neg h⟩

theorem Selector.putInUse_take (v : Selector) (n : PathName) (holdOff : Nat) : PutInUse holdOff n (v.take n holdOff) :=
  ⟨rfl, rfl, rfl, holdOffStarted_startHoldOff holdOff⟩

/-- The decision at a notice that no unlock forces is the one that `Noticed` describes, whatever the content (Table 4.3.1). -/
theorem Selector.noticed_decide (v : Selector) (preferred : Option PathName) (holdOff : Nat) (c : Content) :
    Noticed holdOff preferred v { v.decide preferred false holdOff with content := c } := by
  have ht : ∀ n, PutInUse holdOff n { v.take n holdOff with content := c } := fun n =>
    ⟨rfl, rfl, rfl, holdOffStarted_startHoldOff holdOff⟩
  have hs : ∀ u, (sourceOf u).inUse = some u := fun u => by cases u <;> rfl
  refine ⟨fun n h hn => ?_, fun h hn => ?_, fun h hn => ?_, fun n h hn => ?_, fun u n hu h hn ho => ?_, fun u n hu h hn ho => ?_⟩ <;>
    subst hn
  · simp only [Selector.decide, h, Source.inUse]; exact ht n
  · simp only [Selector.decide, h, Source.inUse]
  · rcases hv : v.source with _ | _ | _
    · simp only [Selector.decide, hv, Source.inUse]; rfl
    · simp only [Selector.decide, hv, Source.inUse]; rfl
    · exact absurd hv h
  · simp only [Selector.decide, h, hs, reduceIte]
  · simp only [Selector.decide, h, hs, if_neg hu, ho, Option.isNone_none, Bool.or_true, reduceIte]; exact ht n
  · have : v.holdOff.isNone = false := by cases hv : v.holdOff <;> simp_all
    simp only [Selector.decide, h, hs, if_neg hu, this, Bool.or_false, Bool.false_eq_true, reduceIte]

/-- A notice handed to a slot moves its selection as `Noticed` says, and sets its content (R84). -/
theorem Slot.noticed_select (x : Slot) (holdOff : Nat) :
    Noticed holdOff x.preferred x.sel (x.select (x.sel.decide x.preferred false holdOff)).sel :=
  Selector.noticed_decide _ _ _ _

theorem Slot.content_select (x : Slot) (v : Selector) :
    (x.select v).sel.content = .pilot ↔ (x.select v).sel.source = .lost ∧ (x.select v).record.lossAction = .pilot := by
  simp only [Slot.select, contentOf]
  split <;> simp_all

/-! ## The governor, the quiet timer, the store -/

theorem State.budgetOfLevel_formBudget (s : State) : s.formBudget.BudgetOfLevel := by
  refine ⟨fun h => ?_, fun h => ?_, fun h => ?_⟩ <;> simp only [State.formBudget] at h ⊢ <;> rw [h] <;> rfl

theorem State.quiet_iff (s : State) : s.quietCondition = true ↔ s.Quiet := by
  simp only [State.quietCondition, State.Quiet, Bool.and_eq_true, beq_iff_eq, bne_iff_ne, ne_eq, Bool.not_eq_true',
    State.someSlot_eq_false, Slot.hasSource, Bool.and_eq_false_iff, bne_eq_false_iff_eq, and_assoc]
  refine and_congr_right fun _ => and_congr_right fun _ => and_congr_right fun _ => forall_congr' fun k => ?_
  cases (s.slot k).record.assigned <;> cases (s.slot k).record.enabled <;> simp

theorem State.askedForRead (s : State) (n : PresetIx) (t : State) (h : t.store = s.store.askRead n) : AskedForRead s t n := by
  refine ⟨fun hi => ?_, fun hi => ?_⟩ <;> rw [h, Store.askRead]
  · rw [if_pos hi]; exact ⟨rfl, rfl⟩
  · rw [if_neg hi]

/-! ## Frames -/

/-- The frame that a period spells is the one that it delivers. -/
theorem FrameBytes.frame {w : List Byte} {f : Frame} (h : FrameBytes w f) : frameOfBytes w = f := by
  obtain ⟨hd, h40, filler, rfl, hf⟩ := h
  obtain ⟨code, declared, payload⟩ := f
  simp only [frameOfBytes, List.take_succ_cons, List.drop_succ_cons, List.drop_zero] at *
  have : ((payload ++ filler).take 40).take declared.toNat = payload := by
    rw [List.take_take, List.take_append]
    rcases hf with rfl | hf | hf
    · simp; omega
    · rw [List.take_of_length_le (by omega), show min declared.toNat 40 - payload.length = 0 by omega]; simp
    · rw [List.take_of_length_le (by omega), show min declared.toNat 40 - payload.length = 0 by omega]; simp
  exact congrArg (fun l => Frame.mk code ⟨declared, l⟩) this

/-- An urgent frame in its right form is classified as the command that it is (R149, R153). -/
theorem UrgentBytes.urgent {w : List Byte} {u : Urgent} (h : UrgentBytes w u) : urgentOfFrame (frameOfBytes w) = some u := by
  obtain ⟨filler, h⟩ := h
  rcases h with ⟨rfl, rfl⟩ | ⟨rfl, rfl⟩ | ⟨rfl, rfl⟩ | ⟨rfl, rfl⟩ | ⟨rfl, rfl⟩ | ⟨rfl, rfl⟩ <;>
    simp [urgentOfFrame, frameOfBytes, byteAt, commandOfCode, deliveredShort, selectorOfByte]

theorem codeOf_of_commandOfCode {code : Byte} {c : Command} (h : commandOfCode code = some c) : code = codeOf c := by
  have all : ∀ n : Fin 256, (commandOfCode (.ofFin n)).all (fun c => BitVec.ofFin n == codeOf c) = true := by decide +kernel
  have := all code.toFin
  rw [show BitVec.ofFin code.toFin = code from rfl, h] at this
  simpa using this

/-- A frame that is classified as urgent is spelled by the bytes of an urgent frame (R149, R177). -/
theorem FrameBytes.urgentBytes {w : List Byte} {f : Frame} {u : Urgent} (h : FrameBytes w f) (hu : urgentOfFrame f = some u) :
    UrgentBytes w u := by
  obtain ⟨hd, -, filler, rfl, -⟩ := h
  obtain ⟨code, declared, payload⟩ := f
  have hc := fun c => codeOf_of_commandOfCode (code := code) (c := c)
  unfold urgentOfFrame at hu
  simp only at hu hd
  split at hu
  · rename_i h; split at hu
    · rename_i h0; cases hu; rw [hc _ h, h0]; subst h0
      exact ⟨payload ++ filler, .inl ⟨rfl, rfl⟩⟩
    · cases hu
  · rename_i h; split at hu
    · rename_i h0; cases hu; rw [hc _ h, h0]
      exact ⟨payload ++ filler, .inr (.inl ⟨rfl, rfl⟩)⟩
    · cases hu
  · rename_i h; split at hu
    · rename_i h0; cases hu; rw [hc _ h, h0]
      exact ⟨payload ++ filler, .inr (.inr (.inl ⟨rfl, rfl⟩))⟩
    · cases hu
  · rename_i h; split at hu
    · rename_i h0
      rw [Bool.and_eq_true, decide_eq_true_eq] at h0
      obtain ⟨h0, h1⟩ := h0
      subst h0
      rcases payload with _ | ⟨b, rest⟩
      · simp [deliveredShort] at h1
      · have hr : rest = [] := by simpa using hd
        subst hr
        rw [hc _ h]
        simp only [byteAt, List.getD_cons_zero, selectorOfByte] at hu
        refine ⟨filler, ?_⟩
        repeat' split at hu
        all_goals simp only [Option.map_some, Option.map_none, Option.some.injEq, reduceCtorEq] at hu
        all_goals subst hu
        all_goals simp_all [codeOf]
    · cases hu
  · cases hu

/-! ## Submissions and takings -/

theorem FeedByte.feed {b : Byte} {f : Feed} (h : FeedByte b f) : feedOfByte b = some f := by
  rcases h with ⟨rfl, rfl⟩ | ⟨rfl, rfl⟩ <;> rfl

theorem LossByte.lossAction {b : Byte} {a : LossAction} (h : LossByte b a) : lossActionOfByte b = some a := by
  rcases h with ⟨rfl, rfl⟩ | ⟨rfl, rfl⟩ <;> rfl

theorem ClassBit.class {b : Byte} {c : ChangeClass} (h : ClassBit b c) : classOfByte b = c := by
  unfold classOfByte
  split
  · exact (h.1 ‹_›).symm
  · exact (h.2 (Bool.eq_false_iff.mpr ‹_›)).symm

theorem slotOfByte_ofNat (k : SlotIx) : slotOfByte (BitVec.ofNat 8 k.val) = some k := by decide +revert

theorem presetOfByte_ofNat (n : PresetIx) : presetOfByte (BitVec.ofNat 8 n.val) = some n := by decide +revert

theorem append_four (b3 b2 b1 b0 : Byte) : (b3 ++ b2 ++ (b1 ++ b0) : Word32) = (b3 ++ b2 ++ b1 ++ b0 : Word32) := by
  apply BitVec.eq_of_getLsbD_eq
  intro i hi
  simp only [BitVec.getLsbD_append]
  repeat' split
  all_goals first | rfl | omega

/-- The 23 bytes of a record, and whatever follows them, are read as the record that they spell (Table 11.1.5). -/
theorem RecordBytes.record {b : List Byte} {r : SlotRecord} (h : RecordBytes b r) (tail : List Byte) :
    b.length = 23 ∧ recordOfBytes (b ++ tail) = some r := by
  obtain ⟨flags, loss, primaryFeed, fallbackFeed, width, p1, p0, tLoss, hyst, lossDwell, restoreDwell, primary, fallback, output,
    rfl, hass, hen, hw, hl, hpf, ⟨a3, a2, a1, a0, rfl, hpo⟩, hf4, hno, hsome, ⟨o3, o2, o1, o0, rfl, ho⟩, hwd, hp, ht, hh, hld, hrd⟩ := h
  obtain ⟨f3, f2, f1, f0, rfl⟩ : ∃ f3 f2 f1 f0, fallback = [f3, f2, f1, f0] := by
    rcases fallback with _ | ⟨a, _ | ⟨b, _ | ⟨c, _ | ⟨d, _ | _⟩⟩⟩⟩ <;> simp at hf4
    exact ⟨_, _, _, _, rfl⟩
  refine ⟨rfl, ?_⟩
  have hfb : fallbackOfBytes ([flags, loss, primaryFeed] ++ [a3, a2, a1, a0] ++ [fallbackFeed] ++ [f3, f2, f1, f0] ++
      [o3, o2, o1, o0] ++ [width, p1, p0, tLoss, hyst, lossDwell, restoreDwell] ++ tail) = some r.fallback := by
    show (if flags.getLsbD 1 then (feedOfByte fallbackFeed).map (fun f => some (⟨f, (f3 ++ f2 ++ (f1 ++ f0) : Word32).toInt⟩ : RxPath))
      else some none) = _
    by_cases h1 : flags.getLsbD 1 = true
    · obtain ⟨path, hp, hfd, g3, g2, g1, g0, hg, hoff⟩ := hsome h1
      cases hg
      rw [if_pos h1, hp, hfd.feed, append_four, ← hoff]
      rfl
    · rw [if_neg h1, hno (Bool.eq_false_iff.mpr h1)]
  unfold recordOfBytes
  rw [hfb]
  show (match lossActionOfByte loss, feedOfByte primaryFeed, some r.fallback with
    | some action, some feed, some fallback =>
      some (⟨true, flags.getLsbD 0, ⟨feed, (a3 ++ a2 ++ (a1 ++ a0) : Word32).toInt⟩, fallback,
        (o3 ++ o2 ++ (o1 ++ o0) : Word32).toInt, width.toNat, (p1 ++ p0 : Word16).toNat, tLoss.toInt, hyst.toNat, lossDwell.toNat,
        restoreDwell.toNat, action, flags.getLsbD 2⟩ : SlotRecord)
    | _, _, _ => none) = some r
  rw [hl.lossAction, hpf.feed, append_four, append_four, ← hpo, ← ho, ← hen, ← hw, ← hwd, ← hp, ← ht, ← hh, ← hld, ← hrd, ← hass]

/-- The argument bytes of a change are as many as its kind has, and are read as the change that they spell (Tables 11.1.6 and
11.1.7). -/
theorem ArgumentBytes.change {kind : Byte} {args : List Byte} {c : Change} (h : ArgumentBytes kind args c) (tail : List Byte) :
    kindOfByte kind = some c.kind ∧ args.length = argumentBytes c.kind ∧ changeOfBytes c.kind (args ++ tail) = some c := by
  have hb : ∀ {v : Bool} {b : Byte}, (v = false ↔ b = 0) → (b != 0) = v := fun {v b} h => by
    cases v
    · simp [h.mp rfl]
    · simpa using fun hb => absurd (h.mpr hb) (by decide)
  cases c with
  | assignSlot k r =>
    obtain ⟨rfl, b, rfl, hr⟩ := h
    refine ⟨rfl, by simp [(hr.record tail).1, argumentBytes, Change.kind], ?_⟩
    show (match slotOfByte (BitVec.ofNat 8 k.val), recordOfBytes (b ++ tail) with
      | some k, some r => some (Change.assignSlot k r)
      | _, _ => none) = _
    rw [slotOfByte_ofNat, (hr.record tail).2]
  | releaseSlot k =>
    obtain ⟨rfl, rfl⟩ := h
    exact ⟨rfl, rfl, by show (slotOfByte (BitVec.ofNat 8 k.val)).map _ = _; rw [slotOfByte_ofNat]; rfl⟩
  | setPower k p =>
    obtain ⟨rfl, p1, p0, rfl, rfl⟩ := h
    exact ⟨rfl, rfl, by show (slotOfByte (BitVec.ofNat 8 k.val)).map _ = _; rw [slotOfByte_ofNat]; rfl⟩
  | setThresholds k =>
    obtain ⟨rfl, t, h, l, d, rfl, rfl, rfl, rfl, rfl⟩ := h
    exact ⟨rfl, rfl, by show (slotOfByte (BitVec.ofNat 8 k.val)).map _ = _; rw [slotOfByte_ofNat]; rfl⟩
  | setSlotEnable k v =>
    obtain ⟨rfl, b, rfl, hv⟩ := h
    exact ⟨rfl, rfl, by show (slotOfByte (BitVec.ofNat 8 k.val)).map (fun k => Change.setSlotEnable k (b != 0)) = _; rw [slotOfByte_ofNat, hb hv]; rfl⟩
  | setPlanParams =>
    obtain ⟨rfl, b1, b0, r, w, q1, q0, h, rfl, rfl, rfl, rfl, rfl, rfl⟩ := h
    exact ⟨rfl, rfl, rfl⟩
  | setTransmit v =>
    obtain ⟨rfl, b, rfl, hv⟩ := h
    exact ⟨rfl, rfl, by show some (Change.setTransmit (b != 0)) = _; rw [hb hv]⟩
  | loadPreset n =>
    obtain ⟨rfl, rfl⟩ := h
    exact ⟨rfl, rfl, by show (presetOfByte (BitVec.ofNat 8 n.val)).map _ = _; rw [presetOfByte_ofNat]; rfl⟩
  | clearLockout =>
    obtain ⟨rfl, rfl⟩ := h
    exact ⟨rfl, rfl, rfl⟩

/-- The ticket that the search finds within n steps: every value before it is held, and it is free unless all n steps were taken
(R26). -/
theorem freeTicket_steps (held : List Byte) (n : Nat) (t : Byte) :
    ∃ m ≤ n, freeTicket held n t = t + BitVec.ofNat 8 m ∧ (∀ j < m, t + BitVec.ofNat 8 j ∈ held) ∧
      (m < n → t + BitVec.ofNat 8 m ∉ held) := by
  induction n generalizing t with
  | zero => exact ⟨0, le_rfl, by simp [freeTicket], by simp, by simp⟩
  | succ n ih =>
    by_cases ht : t ∈ held
    · obtain ⟨m, hm, he, hh, hf⟩ := ih (t + 1)
      have hs : ∀ j : Nat, t + 1 + BitVec.ofNat 8 j = t + BitVec.ofNat 8 (j + 1) := fun j => by
        rw [BitVec.add_assoc, BitVec.ofNat_add, BitVec.add_comm (BitVec.ofNat 8 j)]; rfl
      refine ⟨m + 1, by omega, by rw [freeTicket, if_pos ht, he, hs], fun j hj => ?_, fun hm => ?_⟩
      · rcases j with _ | j
        · simpa using ht
        · rw [← hs]; exact hh j (by omega)
      · rw [← hs]; exact hf (by omega)
    · exact ⟨0, by omega, by simp [freeTicket, ht], by simp, fun _ => by simpa using ht⟩

/-- With fewer than 256 tickets held, the ticket found is the first from the counter's value on that is not held (R26). -/
theorem freeTicket_first (held : List Byte) (t : Byte) (h : held.length < 256) :
    ∃ m ≤ held.length, freeTicket held held.length t = t + BitVec.ofNat 8 m ∧ t + BitVec.ofNat 8 m ∉ held ∧
      ∀ j < m, t + BitVec.ofNat 8 j ∈ held := by
  obtain ⟨m, hm, he, hh, hf⟩ := freeTicket_steps held held.length t
  refine ⟨m, hm, he, fun hin => ?_, hh⟩
  rcases Nat.lt_or_ge m held.length with hlt | hge
  · exact hf hlt hin
  · have hcard : (Finset.range (m + 1)).card ≤ held.toFinset.card := by
      refine Finset.card_le_card_of_injOn (fun j => t + BitVec.ofNat 8 j) (fun j hj => ?_) fun i hi j hj hij => ?_
      · have hj : j < m + 1 := by simpa using hj
        rcases Nat.lt_or_ge j m with hj' | hj'
        · simpa using hh j hj'
        · obtain rfl : j = m := by omega
          simpa using hin
      · have hi : i < m + 1 := by simpa using hi
        have hj : j < m + 1 := by simpa using hj
        have : BitVec.ofNat 8 i = BitVec.ofNat 8 j := by simpa using hij
        have := congrArg BitVec.toNat this
        simp only [BitVec.toNat_ofNat] at this
        omega
    have := held.toFinset_card_le
    simp only [Finset.card_range] at hcard
    omega

/-- A change that no row of Table 2.4.2 refuses passes its tests, clamped (R39). -/
theorem State.testChange_of_not_refuses {s : State} {c : Change} (h : ∀ code, ¬ s.Refuses c code) :
    s.testChange (clampChange c) = none := by
  cases c with
  | assignSlot k r =>
    have hw : r.width ≤ 3 := by have := h .badWidth; simp only [State.Refuses] at this; omega
    have hb : IntervalsInBand r := by
      have := h .outOfBand; simp only [State.Refuses] at this; exact not_not.mp fun hn => this ⟨hw, hn⟩
    have ho := h .overlap
    simp only [State.Refuses] at ho
    have hband : bandTest r = true := by
      obtain ⟨h1, h2, h3⟩ := hb
      unfold InsideBand at h1 h3
      simp only [bandTest, inBand, Bool.and_eq_true, decide_eq_true_eq]
      refine ⟨⟨h1, ?_⟩, h3⟩
      cases hf : r.fallback with
      | none => rfl
      | some f => have := h2 f hf; unfold InsideBand at this; simpa using this
    have hconf : conflictTest k r s = true := by
      simp only [conflictTest, List.all_eq_true, Bool.or_eq_true, beq_iff_eq, Bool.not_eq_true']
      intro j _
      by_cases hj : j = k
      · exact .inl (.inl hj)
      · cases ha : (s.slot j).record.assigned
        · exact .inl (.inr rfl)
        · refine .inr (Bool.eq_false_iff.mpr fun hc => ho ⟨hw, hb, j, hj, ha, ?_⟩)
          rw [conflict, decide_eq_true_eq] at hc
          have hpos : ∀ n, 0 ≤ halfWidth n := fun n => by unfold halfWidth; repeat' split <;> omega
          have := hpos r.width
          have := hpos (s.slot j).record.width
          omega
    have hknown : widthKnown r.width = true := decide_eq_true hw
    show (if !widthKnown r.width then some OutcomeCode.badWidth else if !bandTest r then some .outOfBand
      else if !conflictTest k r s then some .overlap else none) = none
    simp [hknown, hband, hconf]
  | releaseSlot k => simpa [State.Refuses, clampChange, State.testChange] using h .emptySlot
  | setPower k p => simpa [State.Refuses, clampChange, State.testChange] using h .emptySlot
  | setThresholds k => simpa [State.Refuses, clampChange, State.testChange] using h .emptySlot
  | setSlotEnable k v => simpa [State.Refuses, clampChange, State.testChange] using h .emptySlot
  | setPlanParams => rfl
  | setTransmit => rfl
  | loadPreset n =>
    have hv := h .presetInvalid
    have hb := h .storeBusy
    simp only [State.Refuses, not_forall, not_not, not_and] at hv hb
    obtain ⟨img, hi⟩ := hv
    simp [clampChange, State.testChange, hi, Preset.isValid, hb ⟨img, hi⟩]
  | clearLockout => simpa [State.Refuses, clampChange, State.testChange] using h .wrongState

end Sys2Proof.Machine
end

