-- ==== Sys2Proof/Tests/Slice0.lean ====
section
/-! SUPPORT. Tests of the model: the checks of form, figures that the manual works out, and for each statement of
Certificates/Slice0/Obligations.lean a concrete state that meets its hypotheses, with what the command then leaves. -/

namespace Sys2Proof.Tests

open Sys2Proof.Machine

-- One theorem at a time: each waits for the kernel, and a hundred that wait at once are a hundred threads.
set_option Elab.async false

/-! ## States for the tests -/

/-- The state that a command answers with. -/
def after (c : Instr) (s : State) : State :=
  match exec c s with
  | .next t => t
  | .fault _ => s
  | .refused _ => s

/-- Out of reset, the boot over, the plan empty. -/
def calm : State := { State.reset with resetHeld := false, engine := .idle }

/-- ON_AIR with tx_enable yes. -/
def aired : State :=
  { calm with wide := { calm.wide with txEnable := true }, out := { calm.out with state := .onAir, paEn := true } }

/-- The transmitter in a state. -/
def inState (s : State) (t : TxState) : State := { s with out := { s.out with state := t, paEn := t.amplifierOn } }

/-- An assigned, enabled, waking record: primary path on feed A, fallback path on feed B, 1500 kHz wide. -/
def plan (output : Int) (p : Nat) : SlotRecord where
  assigned := true
  enabled := true
  primary := ⟨.a, 0⟩
  fallback := some ⟨.b, 2000⟩
  output := output
  width := 0
  power := p
  tLoss := -60
  hyst := 3
  lossDwell := 2
  restoreDwell := 3
  lossAction := .mute
  wakes := true

/-- A selection on the primary path. -/
def fed : Selector := ⟨.onPrimary, .primary, none, false, .program⟩

/-- A slot with a record, a selection and a ramp, both its paths GOOD. -/
def slotOf (r : SlotRecord) (sel : Selector) (ramp : Ramp) : Slot :=
  { Slot.rest with record := r, words := wordsOf r, primary := ⟨-40, .good, 0⟩, fallback := ⟨-50, .good, 0⟩, sel := sel, ramp := ramp }

/-- A state with a fed slot 0 at a ramp. -/
def withSlot (s : State) (ramp : Ramp) : State := s.putSlot 0 (slotOf (plan 5000 300) fed ramp)

/-- The entry of a change that Port B has submitted under ticket 30. -/
def entryOf (c : Change) : Entry := ⟨30, .b, .normal, c, none⟩

/-- A state whose queue holds one change alone. -/
def asked (s : State) (c : Change) : State := { s with changes := ⟨[entryOf c], 31, .b⟩ }

/-- A state whose port holds an urgent command. -/
def urged (s : State) (p : Port) (u : Urgent) : State := s.modPort p fun q => { q with urgent := some u }

/-- A state whose store is in an activity, with a VALID preset 2. -/
def stored (s : State) (a : Activity) (img : PlanImage) : State :=
  { s with store := { s.store with activity := a, presets := s.store.presets.set 2 (.valid img) } }

/-- A plan image with one slot, tx_enable yes. -/
def image : PlanImage where
  wide := { PlanWide.default with txEnable := true }
  records := (Vector.replicate 16 SlotRecord.rest).set 3 (plan (-12000) 450)

/-- A period's outgoing frame that shows both flags, EMPTY. -/
def shown : Outgoing := ⟨none, ⟨0, 0, true, false, true, false, false, false, false, false⟩, false⟩

/-- A response for the tests. -/
def reply : Response := ⟨.ok, 0x30, []⟩

/-! ## The checks of form -/

theorem test_body_longer_than_declared_is_refused : (Instr.readPlan .a ⟨0, [1]⟩).wellFormed = false := by decide

theorem test_body_past_the_frame_is_refused : (Instr.setBoot .a ⟨200, List.replicate 41 0⟩).wellFormed = false := by decide

theorem test_body_short_of_declared_is_a_frame : (Instr.setBoot .a ⟨1, []⟩).wellFormed = true := by decide

theorem test_unknown_with_a_known_code_is_refused : (Instr.unknown .a 0x42 ⟨0, []⟩).wellFormed = false := by decide

theorem test_unknown_with_no_code_is_a_frame : (Instr.unknown .a 0x43 ⟨0, []⟩).wellFormed = true := by decide

theorem test_second_body_of_two_is_checked :
    (Instr.submitChange (.together ⟨0, []⟩ ⟨0, [1]⟩)).wellFormed = false := by decide

/-! ## Figures that the manual works out -/

/-- Table 1.6.1 and the values around it. -/
theorem test_tuning_words :
    tuningWord 12345 = 552305951 ∧ tuningWord (-12345) = 3742661345 ∧ tuningWord 40000 = 1789569707 ∧
      tuningWord (-40000) = 2505397589 ∧ tuningWord (-39250) = 2538952021 ∧ tuningWord 24000 = 1073741824 ∧ tuningWord 0 = 0 := by
  decide

/-- Tables 6.5.1 and 6.5.2: 400, 350 and 300 under budgets of 1000 and 500. -/
theorem test_grants_of_three_slots :
    [400, 350, 300].map (fun p => grantOf 1000 1050 (slotOf (plan 0 p) fed ⟨.on, 16, none⟩)) = [380, 333, 285] ∧
      [400, 350, 300].map (fun p => grantOf 500 1050 (slotOf (plan 0 p) fed ⟨.on, 16, none⟩)) = [190, 166, 142] := by
  decide

/-- Section 11.3.1: the submission, its taking, and its outcome record, as READ_OUTCOMES reports it. -/
def worked : State :=
  { calm with generation := 12, slots := calm.slots.set 4 (slotOf (plan 0 300) fed .rest), changes := ⟨[], 30, .b⟩ }

theorem test_worked_submission :
    (after (.submitChange (.single .b ⟨7, [3, 0, 4, 0x02, 0x8A, 0, 12]⟩)) worked).changes =
        ⟨[⟨30, .b, .normal, .setPower 4 650, some 12⟩], 31, .b⟩ ∧
      ((after (.submitChange (.single .b ⟨7, [3, 0, 4, 0x02, 0x8A, 0, 12]⟩)) worked).port .b).rspQueue = [⟨.accepted, 0x10, [30]⟩] := by
  decide +kernel

theorem test_worked_taking :
    ((after .setPower (after (.submitChange (.single .b ⟨7, [3, 0, 4, 0x02, 0x8A, 0, 12]⟩)) worked)).port .b).outcomesReport.take 7 =
        [1, 30, 3, 4, 1, 0, 13] ∧
      ((after .setPower (after (.submitChange (.single .b ⟨7, [3, 0, 4, 0x02, 0x8A, 0, 12]⟩)) worked)).port .a).latched .plan = true := by
  decide +kernel

/-! ## The machine, reset and start-up -/

theorem witness_empty_queue_held : State.reset.pending = [] ∧ State.reset.resetHeld = true := by decide

theorem witness_empty_queue_due :
    ({ calm with monitorIn := 4, out := { calm.out with warmUp := some 0 } } : State).possibleEvents = [.warmUpExpiry] ∧
      ({ calm with monitorIn := 4, out := { calm.out with warmUp := some 0 } } : State).dueEvents = [.warmUpExpiry] := by decide +kernel

theorem witness_empty_queue_time_passes : calm.pending = [] ∧ calm.resetHeld = false ∧ calm.possibleEvents = [] := by decide +kernel

theorem witness_deviceReset_cuts_a_save :
    (stored calm (.savingProgram 2 image .a) image).store.activity = .savingProgram 2 image .a ∧
      (after .deviceReset (stored calm (.savingProgram 2 image .a) image)).store.preset 2 = .corrupt := by decide +kernel

theorem witness_deviceReset_cuts_a_boot_write :
    ({ calm.store with activity := .writingBoot (some 1) .b, boot := some 3 } : Store).activity = .writingBoot (some 1) .b ∧
      (after .deviceReset
        { calm with store := { calm.store with activity := .writingBoot (some 1) .b, boot := some 3 } }).store.boot = none := by
  decide +kernel

theorem witness_deviceReset_leaves_a_read :
    (after .deviceReset (stored calm (.reading 2) image)).store.preset 2 = .valid image := by decide +kernel

/-- The four boots of Table 8.5.1, under the three levels. -/
theorem witness_endOfReset :
    State.reset.resetHeld = true ∧ State.reset.store.activity = .idle ∧ State.reset.wide.txEnable = false ∧
      (after (.endOfReset false false) State.reset).store.bootResult = .none ∧
      (after (.endOfReset true false) { State.reset with store := { State.reset.store with boot := some 1 } }).store.bootResult = .empty ∧
      (after (.endOfReset false true)
        { State.reset with store := State.reset.store.putPreset 0 .corrupt |>.begin .idle 0 }).bEff = 500 ∧
      (after (.endOfReset true true)
        { State.reset with store := { State.reset.store.putPreset 0 .corrupt with boot := some 0 } }).store.bootResult = .corrupt ∧
      (after (.endOfReset false false)
        { State.reset with store := { State.reset.store.putPreset 2 (.valid image) with boot := some 2 } }).store.activity = .reading 2 := by
  decide +kernel

theorem witness_boot_read :
    (stored { calm with engine := .booting } (.reading 2) image).out.state = .offAir ∧
      (after .readCompletion (stored { calm with engine := .booting } (.reading 2) image)).out.state = .warmUp ∧
      (after .readCompletion (stored { calm with engine := .booting } (.reading 2) image)).generation = 1 ∧
      (after .readCompletion
        (stored { calm with engine := .booting, out := { calm.out with level := .trip } } (.reading 2) image)).out.state = .tripped ∧
      (after .readCompletion
        (stored { calm with engine := .booting } (.reading 2) { image with wide := PlanWide.default })).out.state = .offAir := by
  decide +kernel

theorem witness_preset_read :
    (after .readCompletion
        (stored { calm with engine := .loading (entryOf (.loadPreset 2)) } (.reading 2) image)).engine = .idle ∧
      ((after .readCompletion
        (stored { calm with engine := .loading (entryOf (.loadPreset 2)) } (.reading 2) image)).slot 3).record.power = 450 ∧
      ((after .readCompletion (stored { withSlot calm .rest with engine := .loading (entryOf (.loadPreset 2)) } (.reading 2) image)).port
        .a).latched .source = true := by
  decide +kernel

/-- tx_enable at a load: no to yes in OFF_AIR, CLOSING(OFF_AIR) and the two stopped states, and in OFF_AIR under TRIP; yes to no in
each state that it moves; and the states that an unchanged tx_enable leaves. -/
def loading (s : State) (tx imageTx : Bool) : State :=
  stored { s with wide := { s.wide with txEnable := tx }, engine := .loading (entryOf (.loadPreset 2)) } (.reading 2)
    { image with wide := { image.wide with txEnable := imageTx } }

theorem witness_preset_read_moves_the_transmitter :
    [TxState.offAir, .closing .offAir, .tripped, .lockout].map
          (fun x => (after .readCompletion (loading (inState calm x) false true)).out.state) = [.warmUp, .onAir, .tripped, .lockout] ∧
      (after .readCompletion (loading { calm with out := { calm.out with level := .trip } } false true)).out.state = .tripped ∧
      [TxState.warmUp, .onAir, .closing .standby, .standby, .tripped, .lockout].map
          (fun x => (after .readCompletion (loading (inState calm x) true false)).out.state) =
        [.offAir, .offAir, .closing .offAir, .offAir, .tripped, .lockout] ∧
      [TxState.warmUp, .standby, .tripped].map (fun x => (after .readCompletion (loading (inState calm x) true true)).out.state) =
        [.warmUp, .standby, .tripped] := by decide +kernel

/-- The quiet timer against the image's 60 s, and at FOLDBACK half the image's budget. -/
theorem witness_preset_read_measures_the_quiet_timer :
    [some 59999, some 60000, none].map (fun q =>
          let t := after .readCompletion (loading { aired with out := { aired.out with quiet := q } } true true);
          (t.out.state, t.out.quiet)) = [(.onAir, some 59999), (.standby, none), (.onAir, some 0)] ∧
      (after .readCompletion (loading { aired with out := { aired.out with level := .foldback } } true true)).bEff = 500 := by
  decide +kernel

/-- A PILOT slot of the image ramps up on the air, and not with the hold set taken; the slot that is not PILOT stays OFF. -/
theorem witness_preset_read_ramps_pilot_slots :
    (let pilots : PlanImage := { image with records := image.records.set 5 { plan 12000 20 with lossAction := .pilot } };
      let s := stored { aired with engine := .loading (entryOf (.loadPreset 2)) } (.reading 2) pilots;
      ((after .readCompletion s).slot 5).ramp = ⟨.rampUp, 0, some 8⟩ ∧ ((after .readCompletion s).slot 3).ramp = ⟨.off, 0, none⟩ ∧
        ((after .readCompletion { s with out := { s.out with hold := ⟨true, false⟩ } }).slot 5).ramp = ⟨.off, 0, none⟩) := by
  decide +kernel

/-! ## The Change Queue -/

theorem witness_generation_moves : (after .setPower (asked (withSlot calm .rest) (.setPower 0 10))).generation = 1 := by decide +kernel

/-- A millisecond passes and a reset is made with the generation at 7; a boot loads; and a change is applied. -/
theorem witness_generation_over_steps :
    (match step { calm with generation := 7 } with | .next t => t.generation | _ => 0) = 7 ∧
      (match step { calm with generation := 7, pending := [.deviceReset] } with | .next t => t.generation | _ => 9) = 0 ∧
      (let t := after .readCompletion (stored { calm with engine := .booting } (.reading 2) image);
        t.engine = .idle ∧ t.store.bootResult = .loaded ∧ t.generation = 1) ∧
      (match step { asked (withSlot calm .rest) (.setPower 0 10) with pending := [.setPower] } with
        | .next t => (t.port .b).outcomes
        | _ => []) = pushOutcome [] ⟨30, .setPower, some 0, .applied, some 1⟩ := by
  decide +kernel

/-- The words of an assigned record, of one with no fallback path, and of an EMPTY one. -/
theorem witness_words :
    wordsOf (plan 24000 1) = ⟨1073741824, 0, tuningWord (-2000)⟩ ∧ (wordsOf { plan 24000 1 with fallback := none }).fallback = 0 ∧
      (wordsOf { plan 0 1 with primary := ⟨.a, 12345⟩ }).primary = tuningWord (-12345) ∧
      wordsOf { plan 24000 1 with assigned := false } = ⟨0, 0, 0⟩ := by decide

theorem witness_submission_malformed :
    calm.Ready .a ∧ Body.wellFormed ⟨2, [10, 0]⟩ = true ∧ submittedOfPayload [10, 0] = none := by
  unfold State.Ready; decide +kernel

theorem witness_submission_full :
    submittedOfPayload [9, 1] = some ⟨.expedited, .clearLockout, none⟩ ∧
      8 ≤ ({ calm.changes with entries := List.replicate 8 (entryOf .clearLockout) } : ChangeQueue).entries.length := by decide +kernel

/-- A ticket that is held is passed over: 30 and 31 are held, 32 is issued. -/
theorem witness_submission_accepted :
    ((after (.submitChange (.single .a ⟨2, [9, 0]⟩))
        { calm with
          changes := ⟨[entryOf .clearLockout], 30, .b⟩
          engine := .draining { entryOf .clearLockout with ticket := 31 } }).port .a).rspQueue = [⟨.accepted, 0x10, [32]⟩] := by
  decide +kernel

/-- The counter at 255, held: the first free value after it is 0. -/
theorem witness_submission_ticket_wraps :
    ((after (.submitChange (.single .a ⟨2, [9, 0]⟩))
        { calm with changes := ⟨[{ entryOf .clearLockout with ticket := 255 }], 255, .b⟩ }).changes.entries.map Entry.ticket,
      (after (.submitChange (.single .a ⟨2, [9, 0]⟩))
        { calm with changes := ⟨[{ entryOf .clearLockout with ticket := 255 }], 255, .b⟩ }).changes.counter) = ([255, 0], 1) := by
  decide +kernel

theorem witness_submissions_together :
    calm.changes.lastServed = .b ∧
      (after (.submitChange (.together ⟨2, [9, 0]⟩ ⟨2, [9, 1]⟩)) calm).changes.entries.map (fun e => (e.origin, e.ticket)) =
        [(.a, 0), (.b, 1)] ∧
      (after (.submitChange (.together ⟨2, [9, 0]⟩ ⟨2, [9, 1]⟩)) { calm with changes := ⟨[], 0, .a⟩ }).changes.entries.map
        (fun e => (e.origin, e.ticket)) = [(.b, 0), (.a, 1)] := by
  decide +kernel

/-- The bounds of the structural tests: slot 15 and 16, preset 3 and 4, a feed byte of 1 and 2, a length one too long. -/
theorem test_structural_bounds :
    (submittedOfPayload [2, 0, 15]).isSome = true ∧ submittedOfPayload [2, 0, 16] = none ∧
      (submittedOfPayload [8, 0, 3]).isSome = true ∧ submittedOfPayload [8, 0, 4] = none ∧
      (submittedOfPayload ([1, 0, 0, 0, 1, 1] ++ List.replicate 20 0)).isSome = true ∧
      submittedOfPayload ([1, 0, 0, 0, 1, 2] ++ List.replicate 20 0) = none ∧
      submittedOfPayload ([1, 0, 0, 0, 2, 1] ++ List.replicate 20 0) = none ∧
      submittedOfPayload ([1, 0, 0, 2, 1, 1, 0, 0, 0, 0, 2] ++ List.replicate 15 0) = none ∧
      (submittedOfPayload ([1, 0, 0, 0, 1, 1, 0, 0, 0, 0, 2] ++ List.replicate 15 0)).isSome = true ∧
      submittedOfPayload [2, 0, 1, 0] = none ∧ (submittedOfPayload [2, 0, 1, 0, 9]).isSome = true := by
  decide +kernel

/-- The 23 bytes of a record, both offsets at the ends of the band, flags 0xFF, and the record that they spell. -/
def recordBytes : List Byte :=
  [0xFF, 1, 0, 0xFF, 0xFF, 0x63, 0xC0, 1, 0, 0, 0x9C, 0x40, 0, 0, 0x30, 0x39, 2, 0x02, 0x8A, 0xC4, 5, 4, 63]

def spelled : SlotRecord where
  assigned := true
  enabled := true
  primary := ⟨.a, -40000⟩
  fallback := some ⟨.b, 40000⟩
  output := 12345
  width := 2
  power := 650
  tLoss := -60
  hyst := 5
  lossDwell := 4
  restoreDwell := 63
  lossAction := .pilot
  wakes := true

theorem witness_record_bytes : RecordBytes recordBytes spelled :=
  ⟨0xFF, 1, 0, 1, 2, 0x02, 0x8A, 0xC4, 5, 4, 63, [0xFF, 0xFF, 0x63, 0xC0], [0, 0, 0x9C, 0x40], [0, 0, 0x30, 0x39], rfl, rfl, rfl, rfl,
    .inr ⟨rfl, rfl⟩, .inl ⟨rfl, rfl⟩, ⟨_, _, _, _, rfl, by decide⟩, rfl, by decide,
    fun _ => ⟨_, rfl, .inr ⟨rfl, rfl⟩, _, _, _, _, rfl, by decide⟩, ⟨_, _, _, _, rfl, by decide⟩, rfl, by decide, by decide, rfl, rfl, rfl⟩

/-- The bytes of each of the nine kinds, of either class, and the two of an expected generation. -/
theorem witness_payload_bytes :
    ArgumentBytes 1 (15 :: recordBytes) (.assignSlot 15 spelled) ∧ ArgumentBytes 2 [15] (.releaseSlot 15) ∧
      ArgumentBytes 3 [4, 0x02, 0x8A] (.setPower 4 650) ∧ ArgumentBytes 4 [4, 5, 1, 2, 3] (.setThresholds 4 5 1 2 3) ∧
      ArgumentBytes 5 [4, 0x80] (.setSlotEnable 4 true) ∧ ArgumentBytes 6 [1, 0, 2, 3, 0xFF, 0xFF, 60] (.setPlanParams 256 2 3 65535 60) ∧
      ArgumentBytes 7 [0] (.setTransmit false) ∧ ArgumentBytes 8 [3] (.loadPreset 3) ∧ ArgumentBytes 9 [] .clearLockout ∧
      ClassBit 0xFE .normal ∧ ClassBit 0x01 .expedited ∧ GenerationBytes [] none ∧ GenerationBytes [1, 2] (some 258) := by
  refine ⟨⟨rfl, _, rfl, witness_record_bytes⟩, ⟨rfl, rfl⟩, ⟨rfl, _, _, rfl, by decide⟩, ⟨rfl, _, _, _, _, rfl, by decide, rfl, rfl, rfl⟩,
    ⟨rfl, _, rfl, by decide⟩, ⟨rfl, _, _, _, _, _, _, _, rfl, by decide, rfl, rfl, by decide, rfl⟩, ⟨rfl, _, rfl, by decide⟩,
    ⟨rfl, rfl⟩, ⟨rfl, rfl⟩, ?_, ?_, .inl ⟨rfl, rfl⟩, .inr ⟨1, 2, rfl, by decide⟩⟩ <;> unfold ClassBit <;> decide

theorem test_payloads_of_the_nine_kinds :
    submittedOfPayload ([1, 0xFE, 15] ++ recordBytes ++ [1, 2]) = some ⟨.normal, .assignSlot 15 spelled, some 258⟩ ∧
      (submittedOfPayload ([1, 0, 15, 0xF8] ++ recordBytes.drop 1)).map Submitted.change =
        some (.assignSlot 15 { spelled with enabled := false, wakes := false, fallback := none }) ∧
      [[2, 1, 15], [3, 0, 4, 0x02, 0x8A, 0, 12], [4, 0, 4, 5, 1, 2, 3], [5, 0, 4, 0x80], [6, 0, 1, 0, 2, 3, 0xFF, 0xFF, 60], [7, 0, 0],
          [8, 0, 3, 0xFF, 0xFF], [9, 3]].map submittedOfPayload =
        [some ⟨.expedited, .releaseSlot 15, none⟩, some ⟨.normal, .setPower 4 650, some 12⟩,
          some ⟨.normal, .setThresholds 4 5 1 2 3, none⟩, some ⟨.normal, .setSlotEnable 4 true, none⟩,
          some ⟨.normal, .setPlanParams 256 2 3 65535 60, none⟩, some ⟨.normal, .setTransmit false, none⟩,
          some ⟨.normal, .loadPreset 3, some 65535⟩, some ⟨.expedited, .clearLockout, none⟩] := by
  decide +kernel

theorem witness_queue_order :
    (⟨[entryOf .clearLockout, { entryOf (.setTransmit true) with cls := .expedited }], 0, .a⟩ : ChangeQueue).next =
        some { entryOf (.setTransmit true) with cls := .expedited } ∧
      (⟨[entryOf .clearLockout, entryOf (.setTransmit true)], 0, .a⟩ : ChangeQueue).next = some (entryOf .clearLockout) := by
  decide

theorem witness_purge :
    ((urged (asked calm .clearLockout) .b .purgeChanges).port .b).urgent = some .purgeChanges ∧
      (after (.purgeChanges .b) (urged (asked calm .clearLockout) .b .purgeChanges)).changes.entries = [] ∧
      ((after (.purgeChanges .b) (urged (asked calm .clearLockout) .b .purgeChanges)).port .b).outcomes =
        [⟨30, .clearLockout, none, .purged, none⟩] ∧
      (after (.purgeChanges .a) (urged (asked calm .clearLockout) .a .purgeChanges)).changes.entries = [entryOf .clearLockout] := by
  decide +kernel

/-! ## Takings -/

theorem witness_refused_stale :
    ((after .clearLockout
        { asked calm .clearLockout with
          changes := ⟨[{ entryOf .clearLockout with expected := some 1 }], 31, .b⟩ }).port .b).outcomes =
      [⟨30, .clearLockout, none, .stale, none⟩] := by decide +kernel

/-- A slot that conflicts with slot 0: centres 1499 kHz apart, where 1500 are allowed. -/
theorem witness_refused_by_each_test :
    (asked (withSlot calm .rest) (.assignSlot 1 { plan 0 1 with width := 4 })).Refuses
        (.assignSlot 1 { plan 0 1 with width := 4 }) .badWidth ∧
      calm.Refuses (.assignSlot 1 (plan 39251 1)) .outOfBand ∧ (withSlot calm .rest).Refuses (.assignSlot 1 (plan 6499 1)) .overlap ∧
      calm.Refuses (.setPower 1 1) .emptySlot ∧ calm.Refuses (.loadPreset 2) .presetInvalid ∧
      (stored calm (.reading 2) image).Refuses (.loadPreset 2) .storeBusy ∧ calm.Refuses .clearLockout .wrongState := by
  refine ⟨?_, ?_, ?_, ?_, fun img => ?_, ⟨⟨image, ?_⟩, ?_⟩, ?_⟩
  · show 3 < 4; decide
  · refine ⟨by decide, fun h => ?_⟩
    exact absurd h.2.2.2 (by decide)
  · refine ⟨by decide, ⟨by unfold InsideBand; decide, fun f hf => ?_, by unfold InsideBand; decide⟩, 0, by decide, by decide +kernel, by decide +kernel⟩
    cases hf; unfold InsideBand; decide
  · show (calm.slot 1).record.assigned = false; decide +kernel
  · show Preset.empty ≠ _; nofun
  · decide +kernel
  · decide +kernel
  · show calm.out.state ≠ .lockout; decide

/-- What no row refuses: SET_PLAN_PARAMS and SET_TRANSMIT whatever their arguments, and an output centre 1500 kHz from slot 0's. -/
theorem witness_nothing_else_refuses :
    (∀ code, ¬ calm.Refuses (.setPlanParams 0 0 99 1 99) code) ∧ (∀ code, ¬ calm.Refuses (.setTransmit true) code) ∧
      (asked calm (.setPlanParams 0 0 99 1 99)).Passes (entryOf (.setPlanParams 0 0 99 1 99)) ∧
      (asked calm (.setTransmit true)).Passes (entryOf (.setTransmit true)) ∧
      (asked (withSlot calm .rest) (.assignSlot 1 (plan 6500 1))).Passes (entryOf (.assignSlot 1 (plan 6500 1))) := by
  refine ⟨fun code => by cases code <;> exact id, fun code => by cases code <;> exact id, ?_⟩
  unfold State.Passes; decide +kernel

theorem test_refusals_by_code :
    [(after .assignSlot (asked calm (.assignSlot 1 { plan 0 1 with width := 4 }))), after .assignSlot (asked calm (.assignSlot 1 (plan 39251 1))),
        after .assignSlot (asked (withSlot calm .rest) (.assignSlot 1 (plan 6499 1))), after .setPower (asked calm (.setPower 1 1)),
        after .releaseSlot (asked calm (.releaseSlot 1)), after .loadPreset (asked calm (.loadPreset 2)),
        after .loadPreset (asked (stored calm (.reading 2) image) (.loadPreset 2)), after .clearLockout (asked calm .clearLockout)].map
        (fun t => (t.port .b).outcomes.map OutcomeRecord.code) =
      [[.badWidth], [.outOfBand], [.overlap], [.emptySlot], [.emptySlot], [.presetInvalid], [.storeBusy], [.wrongState]] := by
  decide +kernel

theorem witness_setPower :
    (asked (withSlot calm .rest) (.setPower 0 1000)).Passes (entryOf (.setPower 0 1000)) ∧
      ((after .setPower (asked (withSlot calm .rest) (.setPower 0 1000))).slot 0).record.power = 1000 ∧
      ((after .setPower (asked (withSlot calm .rest) (.setPower 0 1001))).slot 0).record.power = 1000 ∧
      ((after .setPower (asked (withSlot aired ⟨.on, 16, none⟩) (.setPower 0 999))).slot 0).grant = 999 := by
  unfold State.Passes; decide +kernel

/-- The bounds of the four thresholds, on both sides of each. -/
theorem witness_setThresholds :
    (asked (withSlot calm .rest) (.setThresholds 0 (-91) 0 0 0)).Passes (entryOf (.setThresholds 0 (-91) 0 0 0)) ∧
      [(-91, 0, 0, 0), (-90, 1, 1, 1), (-20, 15, 15, 63), (-19, 16, 16, 64)].map
          (fun (t, h, l, r) => ((after .setThresholds (asked (withSlot calm .rest) (.setThresholds 0 t h l r))).slot 0).record) =
        [(-90, 1, 1, 1), (-90, 1, 1, 1), (-20, 15, 15, 63), (-20, 15, 15, 63)].map fun (t, h, l, r) =>
          { plan 5000 300 with tLoss := t, hyst := h, lossDwell := l, restoreDwell := r } := by
  unfold State.Passes; decide +kernel

theorem witness_setSlotEnable_off :
    (asked (withSlot aired ⟨.on, 16, none⟩) (.setSlotEnable 0 false)).Passes (entryOf (.setSlotEnable 0 false)) ∧
      ((after .setSlotEnable (asked (withSlot aired ⟨.on, 16, none⟩) (.setSlotEnable 0 false))).slot 0).ramp = ⟨.rampDown, 16, some 8⟩ := by
  unfold State.Passes; decide +kernel

/-- Slot 0 disabled with a good source, waking: its enabling wakes the transmitter in each of its two sleeping states. -/
def asleep (t : TxState) : State :=
  asked ((inState aired t).putSlot 0 (slotOf { plan 5000 300 with enabled := false } fed .rest)) (.setSlotEnable 0 true)

theorem witness_setSlotEnable_on :
    (asleep .standby).Passes (entryOf (.setSlotEnable 0 true)) ∧ (after .setSlotEnable (asleep .standby)).out.state = .warmUp ∧
      (after .setSlotEnable { asleep .standby with out := { (asleep .standby).out with level := .trip } }).out.state = .tripped ∧
      (after .setSlotEnable (asleep (.closing .standby))).out.state = .onAir ∧
      ((after .setSlotEnable (asleep .onAir)).slot 0).ramp = ⟨.rampUp, 0, some 8⟩ := by
  unfold State.Passes; decide +kernel

/-- An enabling that is no wake: of a slot not marked wakes, of one LOST, of one enabled before. The transmitter stays. -/
theorem witness_setSlotEnable_no_wake :
    [TxState.standby, .closing .standby].map (fun x =>
        [(asleep x).modSlot 0 fun y => { y with record := { y.record with wakes := false } },
            (asleep x).modSlot 0 fun y => { y with sel := .rest },
            (asleep x).modSlot 0 fun y => { y with record := { y.record with enabled := true } }].map fun s =>
          ((after .setSlotEnable s).out.state, ((after .setSlotEnable s).port .a).latched .txState)) =
      [List.replicate 3 (.standby, false), List.replicate 3 (.closing .standby, false)] ∧
      ((after .setSlotEnable (asleep .standby)).port .a).latched .txState = true := by decide +kernel

/-- Enabled off the air the slot stays OFF; a slot with no source leaves the quiet timer running, and a fed one stops it; and the
wake in CLOSING(STANDBY) turns up another slot on its way down. -/
theorem witness_setSlotEnable_elsewhere :
    ((after .setSlotEnable (asleep .offAir)).slot 0).ramp = ⟨.off, 0, none⟩ ∧
      (after .setSlotEnable (asleep .offAir)).out.state = .offAir ∧
      (let s := asleep .onAir;
        let quiet := { s with out := { s.out with quiet := some 700 } };
        (after .setSlotEnable quiet).out.quiet = none ∧
          (after .setSlotEnable (quiet.modSlot 0 fun x => { x with sel := .rest })).out.quiet = some 700) ∧
      ((after .setSlotEnable
        ((asleep (.closing .standby)).putSlot 1 (slotOf (plan (-5000) 9) fed ⟨.rampDown, 4, some 2⟩))).slot 1).ramp =
          ⟨.rampUp, 4, some 2⟩ := by decide +kernel

/-- The bounds of the five fields, on both sides of each. -/
theorem witness_setPlanParams :
    (asked calm (.setPlanParams 99 0 4 0 60)).Passes (entryOf (.setPlanParams 99 0 4 0 60)) ∧
      [(99, 0, 4, 0, 60), (100, 1, 4, 1, 61), (1000, 63, 5, 9, 0), (1001, 64, 0, 10, 1), (500, 8, 0, 600, 5), (500, 8, 0, 601, 5)].map
          (fun (b, r, w, q, h) => (after .setPlanParams (asked calm (.setPlanParams b r w q h))).wide) =
        [⟨100, 1, 4, 0, 60, false⟩, ⟨100, 1, 4, 10, 60, false⟩, ⟨1000, 63, 4, 10, 0, false⟩, ⟨1000, 63, 0, 10, 1, false⟩,
          ⟨500, 8, 0, 600, 5, false⟩, ⟨500, 8, 0, 600, 5, false⟩] := by
  unfold State.Passes; decide +kernel

/-- The quiet timer against the new quiet time: at 9999 ms it runs on, at 10000 ms it expires, at quiet time 0 it stops. -/
theorem witness_setPlanParams_quiet :
    [(9999, 10), (10000, 10), (10000, 0)].map (fun ((ms, q) : Nat × Nat) =>
        let t := after .setPlanParams (asked { aired with out := { aired.out with quiet := some ms } } (.setPlanParams 1000 8 2 q 5));
        (t.out.state, t.out.quiet)) =
      [(.onAir, some 9999), (.standby, none), (.onAir, none)] := by decide +kernel

theorem witness_setTransmit_yes :
    (asked calm (.setTransmit true)).Passes (entryOf (.setTransmit true)) ∧
      (after .setTransmit (asked calm (.setTransmit true))).out.warmUp = some 2000 ∧
      [TxState.closing .offAir, .tripped, .lockout].map (fun t => (after .setTransmit (asked (inState calm t) (.setTransmit true))).out.state) =
        [.onAir, .tripped, .lockout] ∧
      (after .setTransmit (asked { calm with out := { calm.out with level := .trip } } (.setTransmit true))).out.state = .tripped := by
  unfold State.Passes; decide +kernel

/-- From CLOSING(OFF_AIR) back to ON_AIR: the slot on its way down turns up, TX_STATE is set, and with slot 0 LOST the quiet timer
starts from 0; a change of the closing's target is shown as well. -/
theorem witness_setTransmit_returns :
    (let s := asked (withSlot (inState calm (.closing .offAir)) ⟨.rampDown, 4, some 2⟩) (.setTransmit true);
      let t := after .setTransmit s;
      s.Passes (entryOf (.setTransmit true)) ∧ s.wide.txEnable = false ∧ (t.slot 0).ramp = ⟨.rampUp, 4, some 2⟩ ∧
        t.out.quiet = none ∧ (t.port .a).latched .txState = true ∧ (t.port .b).latched .txState = true ∧
        (after .setTransmit (s.modSlot 0 fun x => { x with sel := .rest })).out.quiet = some 0) ∧
      ((after .setTransmit (asked (inState aired (.closing .standby)) (.setTransmit false))).port .b).latched .txState = true := by
  unfold State.Passes; decide +kernel

theorem witness_setTransmit_no :
    [TxState.warmUp, .onAir, .closing .standby, .standby, .tripped, .lockout].map
        (fun t => (after .setTransmit (asked (inState aired t) (.setTransmit false))).out.state) =
      [.offAir, .offAir, .closing .offAir, .offAir, .tripped, .lockout] ∧
      (after .setTransmit (asked (withSlot aired ⟨.on, 16, none⟩) (.setTransmit false))).out.state = .closing .offAir ∧
      (after .setTransmit (asked aired (.setTransmit true))).out = aired.out := by
  decide +kernel

theorem witness_assign_off :
    (asked aired (.assignSlot 0 { plan 5000 300 with lossAction := .pilot })).Passes
        (entryOf (.assignSlot 0 { plan 5000 300 with lossAction := .pilot })) ∧
      (aired.slot 0).ramp.state = .off ∧
      ((after .assignSlot (asked aired (.assignSlot 0 { plan 5000 300 with lossAction := .pilot }))).slot 0).ramp = ⟨.rampUp, 0, some 8⟩ ∧
      ((after .assignSlot (asked aired (.assignSlot 0 (plan 5000 300)))).slot 0).ramp = Ramp.rest := by
  unfold State.Passes; decide +kernel

/-- The five clamped fields of a record on both sides of each bound. -/
theorem witness_assign_clamps :
    [(999, -90, 1, 1, 1), (1000, -91, 0, 0, 0), (1001, -20, 15, 15, 63), (65535, -19, 16, 16, 64)].map
        (fun (p, t, h, l, r) =>
          ((after .assignSlot
            (asked aired (.assignSlot 0 { plan 5000 p with tLoss := t, hyst := h, lossDwell := l, restoreDwell := r }))).slot 0).record) =
      [(999, -90, 1, 1, 1), (1000, -90, 1, 1, 1), (1000, -20, 15, 15, 63), (1000, -20, 15, 15, 63)].map fun (p, t, h, l, r) =>
        { plan 5000 p with tLoss := t, hyst := h, lossDwell := l, restoreDwell := r } := by decide +kernel

/-- The slot had a source, and both ports show it; a LOST slot shows nothing. -/
theorem witness_assign_shows_the_lost_source :
    (after .assignSlot (asked (withSlot calm .rest) (.assignSlot 0 (plan 0 1)))).ShowsSource 0 ∧
      ((after .assignSlot (asked calm (.assignSlot 0 (plan 0 1)))).port .a).latched .source = false ∧
      (after .releaseSlot (asked (withSlot calm .rest) (.releaseSlot 0))).ShowsSource 0 := by
  refine ⟨fun p => ?_, by decide +kernel, fun p => ?_⟩ <;> cases p <;> decide +kernel

theorem witness_release_off :
    (asked (withSlot calm .rest) (.releaseSlot 0)).Passes (entryOf (.releaseSlot 0)) ∧
      (after .releaseSlot (asked (withSlot calm .rest) (.releaseSlot 0))).slot 0 = Slot.rest := by
  unfold State.Passes; decide +kernel

/-- A drain from ON, from RAMP_DOWN and from RAMP_UP at its first step; at step 0 there is nothing to drain. -/
theorem witness_drain :
    (asked (withSlot aired ⟨.on, 16, none⟩) (.releaseSlot 0)).Passes (entryOf (.releaseSlot 0)) ∧
      [Ramp.mk .on 16 none, .mk .rampDown 1 (some 3), .mk .rampUp 1 (some 3)].map
          (fun r => (after .releaseSlot (asked (withSlot aired r) (.releaseSlot 0))).engine) =
        [.draining (entryOf (.releaseSlot 0)), .draining (entryOf (.releaseSlot 0)), .draining (entryOf (.releaseSlot 0))] ∧
      (after .releaseSlot (asked (withSlot aired ⟨.rampUp, 0, some 3⟩) (.releaseSlot 0))).engine = .idle ∧
      (after .assignSlot (asked (withSlot aired ⟨.on, 16, none⟩) (.assignSlot 0 (plan 0 2000)))).engine =
        .draining (entryOf (.assignSlot 0 (plan 0 1000))) := by
  unfold State.Passes; decide +kernel

theorem witness_drain_ends :
    ((withSlot aired ⟨.rampDown, 1, some 0⟩).slot 0).ramp = ⟨.rampDown, 1, some 0⟩ ∧
      ((after (.stepEvent 0)
        { withSlot aired ⟨.rampDown, 1, some 0⟩ with engine := .draining (entryOf (.assignSlot 0 (plan 0 10))) }).slot 0).record = plan 0 10 ∧
      ((after (.stepEvent 0)
        { withSlot aired ⟨.rampDown, 1, some 0⟩ with engine := .draining (entryOf (.releaseSlot 0)) }).slot 0).record = .rest := by
  decide +kernel

/-- The last marked slot of a LOAD_PRESET, one of two, and a slot that is not the drained one. -/
theorem witness_drain_of_a_load_ends :
    (let s := stored { withSlot aired ⟨.rampDown, 1, some 0⟩ with engine := .draining (entryOf (.loadPreset 2)) } .idle image;
      let busy := { s with store := { s.store with activity := .erasing 1 .a } };
      let two := s.putSlot 1 { slotOf (plan (-5000) 300) fed ⟨.rampDown, 4, some 2⟩ with retuning := true };
      (after (.stepEvent 0) s).engine = .loading (entryOf (.loadPreset 2)) ∧ (after (.stepEvent 0) s).store.activity = .reading 2 ∧
        (after (.stepEvent 0) busy).store.pendingRead = some 2 ∧
        (after (.stepEvent 0) two).engine = .draining (entryOf (.loadPreset 2)) ∧
        (after (.stepEvent 0) { two with engine := .draining (entryOf (.releaseSlot 1)) }).engine = .draining (entryOf (.releaseSlot 1))) := by
  decide +kernel

theorem witness_loadPreset :
    (asked (stored calm .idle image) (.loadPreset 2)).Passes (entryOf (.loadPreset 2)) ∧
      (after .loadPreset (asked (stored calm .idle image) (.loadPreset 2))).store.activity = .reading 2 ∧
      (after .loadPreset (asked (stored calm (.erasing 1 .a) image) (.loadPreset 2))).store.pendingRead = some 2 ∧
      (after .loadPreset (asked (stored (withSlot aired ⟨.on, 16, none⟩) .idle image) (.loadPreset 2))).engine =
        .draining (entryOf (.loadPreset 2)) := by
  unfold State.Passes; decide +kernel

/-- A slot at step 0 of RAMP_UP is OFF at the taking, and at step 1 it drains. -/
theorem witness_loadPreset_at_the_first_step :
    [0, 1].map (fun n =>
        let t := after .loadPreset (asked (stored (withSlot aired ⟨.rampUp, n, some 3⟩) .idle image) (.loadPreset 2));
        (t.engine, t.store.activity, (t.slot 0).ramp)) =
      [(.loading (entryOf (.loadPreset 2)), .reading 2, ⟨.off, 0, none⟩),
        (.draining (entryOf (.loadPreset 2)), .idle, ⟨.rampDown, 1, some 3⟩)] := by decide +kernel

theorem witness_clearLockout :
    (asked (inState calm .lockout) .clearLockout).Passes (entryOf .clearLockout) ∧
      (after .clearLockout (asked (inState calm .lockout) .clearLockout)).out.state = .offAir ∧
      (after .clearLockout (asked (inState aired .lockout) .clearLockout)).out.state = .warmUp ∧
      (after .clearLockout
        (asked { inState aired .lockout with out := { (inState aired .lockout).out with level := .trip } } .clearLockout)).out.state =
          .tripped := by
  unfold State.Passes; decide +kernel

/-! ## Feeds, monitor, selection -/

/-- The good-marker count at 6 and 7. -/
theorem witness_searching_receiver :
    (calm.receiver .a).link = .search ∧
      [6, 7].map (fun n => (after (.goodMarker .a) (calm.putReceiver .a ⟨.search, n, 0⟩)).receiver .a) = [⟨.search, 7, 0⟩, ⟨.locked, 0, 0⟩] ∧
      (after (.badMarker .a) (calm.putReceiver .a ⟨.search, 7, 0⟩)).receiver .a = ⟨.search, 0, 0⟩ ∧
      (after (.missingMarker .a) (calm.putReceiver .a ⟨.search, 7, 0⟩)).receiver .a = ⟨.search, 0, 0⟩ := by decide +kernel

/-- The miss count at 2 and 3; the unlock forces the primary path of slot 0 BAD and leaves its fallback path. -/
theorem witness_locked_receiver :
    [2, 3].map (fun n => (after (.missingMarker .a) (calm.putReceiver .a ⟨.locked, 0, n⟩)).receiver .a) =
        [⟨.locked, 0, 3⟩, ⟨.search, 0, 0⟩] ∧
      (after (.goodMarker .a) (calm.putReceiver .a ⟨.locked, 0, 3⟩)).receiver .a = ⟨.locked, 0, 0⟩ ∧
      ((withSlot calm .rest).slot 0).pathOn .primary .a = true ∧ ((withSlot calm .rest).slot 0).pathOn .fallback .a = false ∧
      ((after (.badMarker .a) ((withSlot calm .rest).putReceiver .a ⟨.locked, 0, 3⟩)).slot 0).primary = ⟨-128, .bad, 0⟩ ∧
      ((after (.badMarker .a) ((withSlot calm .rest).putReceiver .a ⟨.locked, 0, 3⟩)).slot 0).fallback = ⟨-50, .good, 0⟩ := by
  decide +kernel

/-- To the fallback path with hold-offs of 5 s and 0, and into LOST where the fallback path is BAD. -/
theorem witness_unlock_switches :
    ((withSlot calm .rest).slot 0).sel.source = sourceOf .primary ∧
      ((after (.missingMarker .a) ((withSlot calm .rest).putReceiver .a ⟨.locked, 0, 3⟩)).slot 0).sel =
        ⟨.onFallback, .fallback, some 5000, false, .program⟩ ∧
      ((after (.missingMarker .a)
        ((withSlot { calm with wide := { calm.wide with holdOff := 0 } } .rest).putReceiver .a ⟨.locked, 0, 3⟩)).slot 0).sel.holdOff = none ∧
      ((after (.missingMarker .a)
        (((withSlot calm .rest).modSlot 0 fun x => { x with fallback := .rest }).putReceiver .a ⟨.locked, 0, 3⟩)).slot 0).sel =
        ⟨.lost, .primary, none, false, .program⟩ := by
  decide +kernel

/-- One interval: the level -61 is under the threshold -60, the level -60 is not; a feed in SEARCH reads -128; 10 reads as 0. -/
theorem witness_monitorInterval :
    (let s := (withSlot calm .rest).putReceiver .a ⟨.locked, 0, 0⟩;
      [-61, -60, 10, -129].map (fun d => ((after (.monitorInterval (Vector.replicate 16 ⟨d, d, false⟩)) s).slot 0).primary) =
          [⟨-61, .good, 1⟩, ⟨-60, .good, 0⟩, ⟨0, .good, 0⟩, ⟨-128, .good, 1⟩] ∧
        ((after (.monitorInterval (Vector.replicate 16 ⟨-10, -10, false⟩)) s).slot 0).fallback = ⟨-128, .good, 1⟩ ∧
        ((after (.monitorInterval (Vector.replicate 16 ⟨-10, -10, false⟩)) s).slot 1) = Slot.rest) := by
  decide +kernel

/-- Levels that make each path of slot 0 GOOD or BAD at one measurement. -/
def heard (primary fallback : Bool) (fallbackFirst : Bool) : Instr :=
  .monitorInterval (Vector.replicate 16 ⟨if primary then -40 else -100, if fallback then -40 else -100, fallbackFirst⟩)

/-- Slot 0 with a selection and two qualities, one measurement away from turning, both receivers LOCKED. -/
def turning (s : State) (sel : Selector) (primary fallback : Bool) (ramp : Ramp) : State :=
  ({ s with feeds := ⟨⟨.locked, 0, 0⟩, ⟨.locked, 0, 0⟩⟩ } : State).putSlot 0
    { slotOf { plan 5000 300 with lossDwell := 1, restoreDwell := 1 } sel ramp with
      primary := ⟨if primary then -40 else -100, if primary then .good else .bad, 0⟩
      fallback := ⟨if fallback then -40 else -100, if fallback then .good else .bad, 0⟩ }

/-- Out of LOST to the primary path and to the fallback path; into LOST; to the fallback path at once, and deferred by a running
timer; back on a mark that clears; and no notice at all. -/
theorem witness_notice :
    ((after (heard true false false) (turning calm .rest false false .rest)).slot 0).sel = ⟨.onPrimary, .primary, some 5000, false, .program⟩ ∧
      ((after (heard false true false) (turning calm .rest false false .rest)).slot 0).sel = ⟨.onFallback, .fallback, some 5000, false, .program⟩ ∧
      ((after (heard false false false) (turning calm { fed with holdOff := some 9 } true false .rest)).slot 0).sel = ⟨.lost, .primary, none, false, .program⟩ ∧
      ((after (heard false true false) (turning calm fed true true .rest)).slot 0).sel = ⟨.onFallback, .fallback, some 5000, false, .program⟩ ∧
      ((after (heard false true false) (turning calm { fed with holdOff := some 9 } true true .rest)).slot 0).sel =
        ⟨.onPrimary, .primary, some 9, true, .program⟩ ∧
      ((after (heard true true false) (turning calm ⟨.onPrimary, .primary, some 9, true, .program⟩ false true .rest)).slot 0).sel =
        ⟨.onPrimary, .primary, some 9, false, .program⟩ ∧
      ((after (heard true false false) (turning calm fed true false .rest)).slot 0).sel = fed := by decide +kernel

/-- The choice of notes/assumptions/24.md: the plan's hold-off is 0 and an earlier timer runs; and no timer runs. -/
theorem test_switch_at_hold_off_zero :
    (let s := { calm with wide := { calm.wide with holdOff := 0 } };
      [some 9, none].map fun timer =>
        ((after (heard false true false) (turning s { fed with holdOff := timer } true true .rest)).slot 0).sel) =
      [⟨.onPrimary, .primary, some 9, true, .program⟩, ⟨.onFallback, .fallback, none, false, .program⟩] := by decide +kernel

/-- A wake by a gain, and a quiet time reached at SET_PLAN_PARAMS, set TX_STATE on both ports; a notice on the air does not. -/
theorem witness_transmitter_is_shown :
    [after (heard true false false) (turning (inState aired .standby) .rest false false .rest),
        after (heard true false false) (turning aired .rest false false .rest),
        after .setPlanParams (asked { aired with out := { aired.out with quiet := some 10000 } } (.setPlanParams 1000 8 2 10 5))].map
      (fun t => [(t.port .a).latched .txState, (t.port .b).latched .txState]) = [[true, true], [false, false], [true, true]] := by
  decide +kernel

/-- The fallback path turns GOOD as the primary turns BAD: in one order the slot is LOST between, in the other it is not. -/
theorem witness_two_notices :
    [false, true].map (fun first =>
        ((after (heard false true first) (turning calm ⟨.onPrimary, .primary, some 9, false, .program⟩ true false .rest)).slot 0).sel) =
      [⟨.onFallback, .fallback, some 5000, false, .program⟩, ⟨.onPrimary, .primary, some 9, true, .program⟩] := by decide +kernel

/-- A gain wakes the transmitter, to TRIPPED under TRIP, ramps the slot up on the air, and shows; a loss ramps it down. -/
theorem witness_notice_moves_the_output :
    (after (heard true false false) (turning (inState aired .standby) .rest false false .rest)).out.state = .warmUp ∧
      (let s := inState aired .standby;
        (after (heard true false false)
          (turning { s with out := { s.out with level := .trip } } .rest false false .rest)).out.state = .tripped) ∧
      (after (heard true false false) (turning (inState aired (.closing .standby)) .rest false false .rest)).out.state = .onAir ∧
      ((after (heard true false false) (turning aired .rest false false .rest)).slot 0).ramp = ⟨.rampUp, 0, some 8⟩ ∧
      ((after (heard false false false) (turning aired fed true false ⟨.on, 16, none⟩)).slot 0).ramp = ⟨.rampDown, 16, some 8⟩ ∧
      (after (heard false false false) (turning aired fed true false ⟨.on, 16, none⟩)).out.quiet = some 0 ∧
      ((after (heard true false false) (turning calm .rest false false .rest)).port .a).changed = 1 ∧
      (after (heard false true false) (turning aired fed true true ⟨.on, 16, none⟩)).out = aired.out := by decide +kernel

/-- Both dwell counters at their ends: a second low level makes a path BAD, a third high one GOOD again. -/
theorem test_quality_turns :
    PathState.judge (plan 0 0) (-61) ⟨0, .good, 1⟩ = ⟨-61, .bad, 0⟩ ∧ PathState.judge (plan 0 0) (-57) ⟨0, .bad, 1⟩ = ⟨-57, .bad, 2⟩ ∧
      PathState.judge (plan 0 0) (-57) ⟨0, .bad, 2⟩ = ⟨-57, .good, 0⟩ ∧ PathState.judge (plan 0 0) (-58) ⟨0, .bad, 2⟩ = ⟨-58, .bad, 0⟩ := by
  decide

/-- On the fallback path with the mark set: the expiry returns the slot to its primary path. -/
theorem witness_holdOffExpiry :
    (let s := calm.putSlot 0 (slotOf (plan 5000 300) ⟨.onFallback, .fallback, some 0, true, .program⟩ .rest);
      (s.slot 0).preferred = some .primary ∧ (s.slot 0).sel.source ≠ sourceOf .primary ∧
        ((after (.holdOffExpiry 0) s).slot 0).sel = ⟨.onPrimary, .primary, some 5000, false, .program⟩) ∧
      ((after (.holdOffExpiry 0) (calm.putSlot 0 (slotOf (plan 5000 300) { fed with holdOff := some 0 } .rest))).slot 0).sel = fed := by
  decide +kernel

/-! ## Ramps and the governor -/

/-- The steps at which a ramp turns over: 14 and 15 upward, 2 and 1 downward. -/
theorem witness_stepEvent :
    [Ramp.mk .rampUp 14 (some 0), .mk .rampUp 15 (some 0), .mk .rampDown 2 (some 0), .mk .rampDown 1 (some 0)].map
        (fun r => ((after (.stepEvent 0) (withSlot aired r)).slot 0).ramp) =
      [⟨.rampUp, 15, some 8⟩, ⟨.on, 16, none⟩, ⟨.rampDown, 1, some 8⟩, ⟨.off, 0, none⟩] := by decide +kernel

theorem witness_last_stepEvent_closes :
    (∀ j : SlotIx, j ≠ 0 → ((withSlot (inState aired (.closing .standby)) ⟨.rampDown, 1, some 0⟩).slot j).ramp.state = .off) ∧
      (after (.stepEvent 0) (withSlot (inState aired (.closing .standby)) ⟨.rampDown, 1, some 0⟩)).out.state = .standby ∧
      (after (.stepEvent 0) (withSlot (inState aired (.closing .offAir)) ⟨.rampDown, 1, some 0⟩)).out.paEn = false := by
  decide +kernel

theorem witness_governor_law : calm.GovernorLaw ∧ calm.RampLaw := by
  unfold State.GovernorLaw State.RampLaw Ramp.Lawful; decide +kernel

/-- A state with a ramping slot that obeys the laws of the ramps, the output and the trips, all premises of invariants. -/
theorem witness_ramp_and_output_laws :
    (withSlot aired ⟨.rampUp, 3, some 2⟩).RampLaw ∧ (withSlot aired ⟨.rampUp, 3, some 2⟩).DemandLaw ∧
      (withSlot aired ⟨.rampUp, 3, some 2⟩).AmplifierLaw ∧ (withSlot aired ⟨.rampUp, 3, some 2⟩).TripLaw := by
  unfold State.RampLaw Ramp.Lawful State.DemandLaw State.AmplifierLaw State.TripLaw; decide +kernel

theorem witness_on_air_law : (withSlot aired ⟨.rampUp, 3, some 2⟩).OnAirLaw := fun _ _ => .inl rfl

theorem witness_queue_law : (asked calm .clearLockout).QueueLaw := by unfold State.QueueLaw; decide +kernel

/-! ## The Output Controller -/

/-- The fed slot turns up; with the hold set taken it stays, and the quiet timer does not run beside a fed slot. -/
theorem witness_warmUpExpiry :
    (let s := withSlot { inState aired .warmUp with out := { (inState aired .warmUp).out with warmUp := some 0 } } .rest;
      ((after .warmUpExpiry s).slot 0).ramp = ⟨.rampUp, 0, some 8⟩ ∧ (after .warmUpExpiry s).out.quiet = none ∧
        ((after .warmUpExpiry { s with out := { s.out with hold := ⟨true, false⟩ } }).slot 0).ramp = Ramp.rest ∧
        (after .warmUpExpiry { s with slots := calm.slots }).out.quiet = some 0) := by
  decide +kernel

theorem witness_quietExpiry :
    (let s := { aired with out := { aired.out with quiet := some 60000 } };
      (after .quietExpiry s).out.state = .standby ∧ (after .quietExpiry (withSlot s ⟨.on, 16, none⟩)).out.state = .closing .standby ∧
        ((after .quietExpiry (withSlot s ⟨.on, 16, none⟩)).slot 0).ramp = ⟨.rampDown, 16, some 8⟩) := by
  decide +kernel

theorem witness_protection :
    (after (.protectionLevelChange false true) (withSlot aired ⟨.on, 16, none⟩)).bEff = 500 ∧
      (after (.protectionLevelChange false true) (withSlot aired ⟨.on, 16, none⟩)).out.state = .onAir ∧
      (after (.protectionLevelChange true true) (inState aired .standby)).out.state = .standby ∧
      (after (.protectionLevelChange false false) aired) = aired := by
  decide +kernel

/-- A second trip and a third. -/
theorem witness_trip :
    [[5], [5, 6]].map (fun l =>
        let t := after (.protectionLevelChange true false) (withSlot { aired with out := { aired.out with trips := l }, now := 9 } ⟨.on, 16, none⟩);
        (t.out.state, t.out.trips, (t.slot 0).ramp)) =
      [(.tripped, [5, 9], ⟨.off, 0, none⟩), (.lockout, [5, 6, 9], ⟨.off, 0, none⟩)] := by decide +kernel

/-- A trip ends the three kinds of drain, and leaves an engine that drains nothing. -/
theorem witness_trip_ends_drains :
    (let s := stored (withSlot aired ⟨.rampDown, 7, some 2⟩) .idle image;
      let trip := fun c => after (.protectionLevelChange true false) { s with engine := .draining (entryOf c) };
      (trip (.assignSlot 0 (plan 0 10))).engine = .idle ∧ ((trip (.assignSlot 0 (plan 0 10))).slot 0).record = plan 0 10 ∧
        (trip (.releaseSlot 0)).slot 0 = Slot.rest ∧
        ((trip (.releaseSlot 0)).port .b).outcomes = [⟨30, .releaseSlot, some 0, .applied, some 1⟩] ∧
        (trip (.loadPreset 2)).engine = .loading (entryOf (.loadPreset 2)) ∧ (trip (.loadPreset 2)).store.activity = .reading 2 ∧
        (after (.protectionLevelChange true false) s).engine = .idle) := by decide +kernel

theorem witness_leaving_trip :
    [(true, false), (true, true), (false, false)].map (fun ((tx, lo) : Bool × Bool) =>
        let s := { inState aired .tripped with wide := { aired.wide with txEnable := tx } };
        let t := after (.protectionLevelChange false lo) { s with out := { s.out with level := .trip } };
        (t.out.state, t.out.level, t.bEff)) =
      [(.warmUp, .normal, 1000), (.warmUp, .foldback, 500), (.offAir, .normal, 1000)] ∧
      (after .tripHistoryDeparture { calm with out := { calm.out with trips := [4, 7] } }).out.trips = [7] := by decide +kernel

theorem witness_hold_and_release :
    (let s := urged (withSlot aired ⟨.on, 16, none⟩) .a .holdOutput;
      let h := after (.holdOutput .a) s;
      h.out.hold = ⟨true, false⟩ ∧ (h.slot 0).ramp = ⟨.rampDown, 16, some 8⟩ ∧
        ((after (.releaseOutput .a) (urged h .a .releaseOutput)).slot 0).ramp = ⟨.on, 16, none⟩ ∧
        (after (.holdOutput .b) (urged h .b .holdOutput)).slots = h.slots ∧
        (after (.releaseOutput .b) (urged h .b .releaseOutput)).out = h.out) := by
  decide +kernel

/-! ## The Preset Store -/

theorem witness_store_commands :
    calm.Ready .a ∧ calm.engine.usesPreset 2 = false ∧ (Engine.loading (entryOf (.loadPreset 2))).usesPreset 2 = true ∧
      (after (.savePreset .a ⟨1, [2]⟩) calm).store.activity = .savingErase 2 calm.planImage .a ∧
      ((after (.erasePreset .a ⟨1, [2]⟩) (stored calm (.reading 0) image)).port .a).rspQueue = [⟨.storeBusy, 0x41, []⟩] ∧
      ((after (.savePreset .a ⟨1, [2]⟩) { calm with engine := .loading (entryOf (.loadPreset 2)) }).port .a).rspQueue =
        [⟨.presetInUse, 0x40, []⟩] ∧
      (after (.setBoot .b ⟨1, [0xFF]⟩) calm).store.activity = .writingBoot none .b := by
  unfold State.Ready; decide +kernel

/-- The choice of notes/assumptions/26.md: while the read of preset 2 waits for a boot-selector write, and after its completion, a
save or erase of preset 2 is PRESET_IN_USE, and a save of another preset or a SET_BOOT is STORE_BUSY. -/
theorem test_store_answers_at_a_completion :
    (let s := stored { calm with engine := .loading (entryOf (.loadPreset 2)) } (.writingBoot none .a) image;
      let u := { s with store := { s.store with pendingRead := some 2 } };
      let t := after .bootSelectorWriteCompletion u;
      t.store.activity = .reading 2 ∧
        [u, t].map (fun x => [PortOp.save 2, .erase 2, .save 1, .writeBoot (some 2)].map x.storeAnswer) =
          List.replicate 2 [.presetInUse, .presetInUse, .storeBusy, .storeBusy]) := by
  decide +kernel

/-- While a reset is held no operation starts, so a second reset has none to cut. -/
theorem witness_store_commands_in_a_reset :
    (let s := { stored calm .idle image with resetHeld := true, engine := .booting };
      [after (.savePreset .a ⟨1, [1]⟩) s, after (.erasePreset .a ⟨1, [2]⟩) s, after (.setBoot .a ⟨1, [2]⟩) s].map
          (fun t => ((t.port .a).rspQueue.map Response.code, t.store.activity)) =
        [([.storeBusy], .idle), ([.storeBusy], .idle), ([.storeBusy], .idle)]) := by decide +kernel

theorem witness_store_phases :
    (after .endOfErasing (stored calm (.savingErase 1 image .a) image)).store.activity = .savingProgram 1 image .a ∧
      (after (.endOfProgramming true) (stored calm (.savingProgram 1 image .a) image)).store.preset 1 = .valid image ∧
      (after (.endOfProgramming false) (stored calm (.savingProgram 1 image .a) image)).store.preset 1 = .corrupt ∧
      (after .eraseCompletion (stored calm (.erasing 2 .b) image)).store.preset 2 = .empty ∧
      ((after .eraseCompletion (stored calm (.erasing 2 .b) image)).port .b).latched .store = true ∧
      (after .bootSelectorWriteCompletion (stored calm (.writingBoot (some 3) .a) image)).store.boot = some 3 ∧
      (let s := stored calm (.erasing 1 .b) image;
        let t := after .eraseCompletion { s with store := { s.store with pendingRead := some 2 } };
        t.store.activity = .reading 2 ∧ t.store.pendingRead = some 2 ∧
          (after .readCompletion { t with engine := .loading (entryOf (.loadPreset 2)) }).store.pendingRead = none) := by
  decide +kernel

/-! ## The control ports -/

theorem witness_selectPeriodStart :
    (calm.port .a).period = none ∧ ((after (.selectPeriodStart .a) calm).port .a).period.isSome = true ∧
      ((after (.selectPeriodStart .a) (calm.modPort .a fun q => { q with silent := true })).port .b).latched .peer = true ∧
      after (.selectPeriodStart .a) (calm.modPort .a fun q => { q with period := some shown }) =
        calm.modPort .a fun q => { q with period := some shown } := by
  decide +kernel

/-- A period with both flags shown: a NOP clears them, a free and a taken register, a right and a wrong length of PORT_CLEAR. -/
theorem witness_selectPeriodEnd :
    (let s := calm.modPort .a fun q => { q with period := some shown, overrun := true, urgentLost := true, silenceTime := 3 };
      ((after (.selectPeriodEnd .a [0x80]) s).port .a).overrun = false ∧ ((after (.selectPeriodEnd .a [0, 9]) s).port .a).urgentLost = false ∧
        ((after (.selectPeriodEnd .a [0, 0]) s).port .a).silenceTimer = some 0 ∧
        ((after (.selectPeriodEnd .a [0x80, 0, 7]) s).port .a).urgent = some .holdOutput ∧
        ((after (.selectPeriodEnd .a [0x81, 0]) (urged s .a .purgeChanges)).port .a).urgentLost = true ∧
        ((after (.selectPeriodEnd .a [0x83, 1, 3]) s).port .a).urgent = some (.portClear .both) ∧
        ((after (.selectPeriodEnd .a [0x83, 1, 4]) s).port .a).rspQueue = [⟨.malformed, 0x83, []⟩] ∧
        ((after (.selectPeriodEnd .a [0x21, 0, 0, 0]) s).port .a).rspQueue.length = 1) := by
  decide +kernel

/-- A wrong urgent form behind a full response queue; and at a port where a command waits: a NOP, an urgent frame at a free and at a
taken register, and a frame that joins, each with nothing taken away; a fifth command is discarded, and OVERRUN stays set. -/
theorem witness_selectPeriodEnd_waiting :
    (let s := calm.modPort .a fun q =>
        { q with period := some shown, overrun := true, rspQueue := [reply, reply, reply, reply], silenceTime := 3 };
      let one := s.modPort .a fun q => { q with cmdQueue := [⟨0x21, ⟨0, []⟩⟩] };
      let four := s.modPort .a fun q => { q with cmdQueue := List.replicate 4 ⟨0x21, ⟨0, []⟩⟩ };
      ((after (.selectPeriodEnd .a [0x80, 1, 5]) s).port .a).cmdQueue = [⟨0x80, ⟨1, [5]⟩⟩] ∧
        ((after (.selectPeriodEnd .a [0, 0]) one).port .a).overrun = false ∧
        ((after (.selectPeriodEnd .a [0x80, 0]) one).port .a).urgent = some .holdOutput ∧
        ((after (.selectPeriodEnd .a [0x80, 0]) (urged one .a .purgeChanges)).port .a).urgent = some .purgeChanges ∧
        ((after (.selectPeriodEnd .a [0x22, 0]) one).port .a).cmdQueue = [⟨0x21, ⟨0, []⟩⟩, ⟨0x22, ⟨0, []⟩⟩] ∧
        ((after (.selectPeriodEnd .a [0x22, 0]) one).port .a).overrun = false ∧
        ((after (.selectPeriodEnd .a [0x22, 0]) four).port .a).cmdQueue.length = 4 ∧
        ((after (.selectPeriodEnd .a [0x22, 0]) four).port .a).overrun = true) := by
  decide +kernel

/-- A period that takes the response away: the waiting command answers, and the new frame waits in its place, or is urgent. -/
theorem witness_selectPeriodEnd_makes_room :
    (let s := calm.modPort .a fun q =>
        { q with
          period := some { shown with response := some reply, atHead := true }
          rspQueue := [reply, reply, reply, reply]
          cmdQueue := [⟨0x99, ⟨0, []⟩⟩] };
      let t := after (.selectPeriodEnd .a [0x22, 0, 0, 0]) s;
      (t.port .a).rspQueue = [reply, reply, reply, ⟨.unknown, 0x99, []⟩] ∧ (t.port .a).cmdQueue = [⟨0x22, ⟨0, []⟩⟩] ∧
        ((after (.selectPeriodEnd .a [0x80, 0, 0, 0]) s).port .a).urgent = some .holdOutput ∧
        ((after (.selectPeriodEnd .a [0x80, 0, 0, 0]) s).port .a).cmdQueue = [] ∧
        ((after (.selectPeriodEnd .a [0x80, 0, 0]) s).port .a).cmdQueue = [⟨0x99, ⟨0, []⟩⟩]) := by
  decide +kernel

theorem witness_frame_bytes :
    FrameBytes [0x83, 1, 4, 9] ⟨0x83, ⟨1, [4]⟩⟩ ∧ FrameBytes [0x21, 2, 7] ⟨0x21, ⟨2, [7]⟩⟩ ∧ ∀ u, ¬ UrgentBytes [0x83, 1, 4, 9] u := by
  refine ⟨⟨by decide, by decide, [9], rfl, .inr (.inl rfl)⟩, ⟨by decide, by decide, [], rfl, .inl rfl⟩, ?_⟩
  rintro u ⟨filler, h⟩
  simp at h

/-- A full response queue: a frame waits, and acts when a period takes a response away. -/
theorem witness_waiting :
    (let s := calm.modPort .a fun q => { q with rspQueue := [reply, reply, reply, reply] };
      queuedForm (.setSilence .a ⟨1, [9]⟩) = some (.a, 0x32, ⟨1, [9]⟩) ∧ (s.port .a).rspQueue.length = 4 ∧
        ((after (.setSilence .a ⟨1, [9]⟩) s).port .a).cmdQueue = [⟨0x32, ⟨1, [9]⟩⟩] ∧
        ((after (.setSilence .a ⟨1, [9]⟩) s).port .a).silenceTime = 0 ∧
        ((after (.setSilence .a ⟨1, [9]⟩) (s.modPort .a fun q => { q with cmdQueue := List.replicate 4 ⟨0x21, ⟨0, []⟩⟩ })).port .a).overrun = true ∧
        ((after (.selectPeriodEnd .a [0, 0, 0, 0])
          (after (.selectPeriodStart .a) (after (.setSilence .a ⟨1, [9]⟩) s))).port .a).silenceTime = 9) := by
  decide +kernel

/-- Each fault of form: short, of a wrong length, a slot of 16, a preset of 4, a boot selection of 4, an urgent code in the queue. -/
theorem witness_form_faults :
    FormFault .setBoot ⟨1, []⟩ ∧ FormFault .readPlan ⟨1, [0]⟩ ∧ FormFault .readSlot ⟨1, [16]⟩ ∧ FormFault .scanRange ⟨2, [0, 16]⟩ ∧
      FormFault .savePreset ⟨1, [4]⟩ ∧ FormFault .setBoot ⟨1, [4]⟩ ∧ FormFault .holdOutput ⟨1, [0]⟩ ∧ commandOfCode 0x99 = none ∧
      ¬ FormFault .setBoot ⟨1, [0xFF]⟩ ∧ ¬ FormFault .readSlot ⟨1, [15]⟩ := by
  refine ⟨?_, ?_, ?_, ?_, ?_, ?_, ?_, ?_, ?_, ?_⟩ <;> (try unfold FormFault) <;> decide +kernel

theorem test_form_faults_are_answered :
    [after (.setBoot .a ⟨1, []⟩) calm, after (.readPlan .a ⟨1, [0]⟩) calm, after (.readSlot .a ⟨1, [16]⟩) calm,
        after (.scanRange .a ⟨2, [0, 16]⟩) calm, after (.unknown .a 0x99 ⟨0, []⟩) calm].map (fun t => (t.port .a).rspQueue) =
      [[⟨.malformed, 0x42, []⟩], [⟨.malformed, 0x21, []⟩], [⟨.malformed, 0x20, []⟩], [⟨.malformed, 0x33, []⟩], [⟨.unknown, 0x99, []⟩]] := by
  decide +kernel

theorem test_read_lengths :
    [after (.readSlot .a ⟨1, [15]⟩) calm, after (.readPlan .a ⟨0, []⟩) calm, after (.readTransmitter .a ⟨0, []⟩) calm,
        after (.readFeeds .a ⟨0, []⟩) calm, after (.readOutcomes .a ⟨0, []⟩) calm, after (.readEvents .a ⟨0, []⟩) calm,
        after (.readStore .a ⟨0, []⟩) calm, after (.scanNext .a ⟨0, []⟩) calm].map
        (fun t => (t.port .a).rspQueue.map fun r => r.payload.length) =
      [[56], [13], [28], [4], [49], [5], [17], [56]] := by decide +kernel

/-- PROTECTION and PEER latched: READ_EVENTS reports both, names PROTECTION, and clears it alone; with both masked, nothing. -/
theorem witness_readEvents :
    (let s := calm.modPort .a fun q => { q with latches := 0b100000001#9, changed := 5 };
      ((after (.readEvents .a ⟨0, []⟩) s).port .a).rspQueue = [⟨.ok, 0x25, [1, 1, 1, 0, 5]⟩] ∧
        ((after (.readEvents .a ⟨0, []⟩) s).port .a).latches = 0b100000000#9 ∧
        ((after (.readEvents .a ⟨0, []⟩) (s.modPort .a fun q => { q with mask := 0b111111111#9 })).port .a).rspQueue =
          [⟨.ok, 0x25, [0, 0, 0, 0, 5]⟩] ∧
        ((after (.readEvents .a ⟨0, []⟩) (s.modPort .a fun q => { q with latches := 0b010010000#9 })).port .a).changed = 0) := by
  decide +kernel

theorem witness_readStore :
    (after (.readStore .a ⟨0, []⟩) calm).store.toggle = ⟨false, false⟩ ∧
      (after (.readStore .a ⟨0, []⟩) (stored calm (.erasing 1 .a) image)).store.toggle = ⟨true, false⟩ := by decide +kernel

/-- The two longer reports, byte by byte: ages of 0, 599 and, at the departure, 599; a stopped and a running quiet timer; a save with
a read waiting and a failed save behind it. -/
theorem test_reports_byte_by_byte :
    (let s := { withSlot aired ⟨.on, 16, none⟩ with now := 600000, out := { aired.out with trips := [0, 1000, 600000] } };
      let q := { s with out := { s.out with state := .closing .standby, quiet := some 61999 } };
      s.transmitterReport =
          [2, 0xFF, 1, 0, 0, 3, 2, 87, 2, 87, 0, 0, 0, 0, 0, 0, 0, 3, 232, 1, 1, 44, 0, 0, 3, 232, 0, 0] ∧
        (q.transmitterReport.drop 1).head? = some 4 ∧ (q.transmitterReport.drop 14).take 3 = [0, 61, 1]) ∧
      ({ (stored calm (.savingProgram 1 image .b) image).store with
          pendingRead := some 2, lastResult := some ⟨.save 3, .a, false⟩, boot := some 0, bootResult := .loaded, toggle := ⟨true, false⟩ } :
          Store).report .a = [2, 1, 1, 1, 2, 0, 0, 1, 0, 0, 1, 1, 3, 0, 1, 4, 1] := by
  decide +kernel

theorem witness_settings :
    ((after (.setEventMask .a ⟨2, [0xFF, 0x01]⟩) calm).port .a).mask = 0b100000001#9 ∧
      ((after (.setPeerFlags .a ⟨1, [0]⟩) calm).port .b).latched .peer = false ∧
      ((after (.setPeerFlags .a ⟨1, [2]⟩) calm).port .b).latched .peer = true ∧
      ((after (.setPeerFlags .a ⟨1, [2]⟩) calm).port .a).peer1 = true ∧
      ((after (.setSilence .a ⟨1, [0]⟩) calm).port .a).silenceTimer = none ∧
      ((after (.setSilence .a ⟨1, [1]⟩) calm).port .a).silenceTimer = some 0 ∧
      ((after (.scanRange .a ⟨2, [14, 1]⟩) calm).port .a).scanPtr = 14 := by decide +kernel

/-- A range from 14 to 1 runs through 15 and 0. -/
theorem test_scan_wraps :
    [(14 : SlotIx), 15, 0, 1].map (fun k => (({ PortState.rest with scanFirst := 14, scanLast := 1, scanPtr := k } : PortState).advanceScan).scanPtr) =
      [15, 0, 1, 14] := by decide

/-- PORT_CLEAR with each selector at a port that has responses only, and RESPONSES at one where a command waits. -/
theorem witness_portClear :
    (let s := calm.modPort .a fun q => { q with rspQueue := [reply], overrun := true };
      [ClearSelector.commands, .responses, .both].map
          (fun sel => ((after (.portClear .a) (urged s .a (.portClear sel))).port .a).rspQueue.length) = [1, 0, 0] ∧
        ((after (.portClear .a) (urged s .a (.portClear .commands))).port .a).overrun = false ∧
        ((after (.portClear .a)
          (urged (s.modPort .a fun q => { q with cmdQueue := [⟨0x99, ⟨0, []⟩⟩] }) .a (.portClear .responses))).port .a).rspQueue =
          [⟨.unknown, 0x99, []⟩]) := by
  decide +kernel

/-- The choice of notes/assumptions/25.md: a short frame is UNKNOWN where its code names no command, and MALFORMED otherwise. -/
theorem test_short_frames :
    [(0x99 : Byte), 0x30].map (fun code => (calm.perform .a ⟨code, ⟨2, [1]⟩⟩).1) = [(.unknown, []), (.malformed, [])] := by
  decide +kernel

/-- Released, and gone SILENT, with slot 0 LOST: the quiet timer starts from 0; with slot 0 fed it stays stopped, and with the other
port holding still. -/
theorem witness_hold_set_empties :
    (let s := withSlot { aired with out := { aired.out with hold := ⟨true, false⟩ } } ⟨.rampDown, 4, some 2⟩;
      let l := s.modSlot 0 fun x => { x with sel := .rest };
      let b := { l with out := { l.out with hold := ⟨true, true⟩ } };
      let silent := fun u : State => u.modPort .a fun q => { q with silenceTime := 3, silenceTimer := some 3000 };
      [s, l, b].map (fun u => ((after (.releaseOutput .a) (urged u .a .releaseOutput)).out.quiet,
          (after (.silenceExpiry .a) (silent u)).out.quiet)) =
        [(none, none), (some 0, some 0), (none, none)]) := by
  decide +kernel

/-- The silence of the one port that holds the output lets a fed slot turn up. -/
theorem witness_silenceExpiry :
    (let s := withSlot { aired with out := { aired.out with hold := ⟨true, false⟩ } } ⟨.rampDown, 4, some 2⟩;
      let t := after (.silenceExpiry .a) (s.modPort .a fun q => { q with silenceTime := 3, silenceTimer := some 3000, peer0 := true });
      (t.port .a).silent = true ∧ (t.port .a).peer0 = false ∧ (t.port .b).latched .peer = true ∧ t.out.hold = ⟨false, false⟩ ∧
        (t.slot 0).ramp = ⟨.rampUp, 4, some 2⟩) := by
  decide +kernel

theorem witness_port_laws : calm.PortLaw ∧ calm.WaitingLaw :=
  ⟨fun p => by cases p <;> exact ⟨by decide, by decide, by decide⟩, fun p => by cases p <;> exact .inl rfl⟩

/-- A slot 0 that is fed and ON beside fifteen slots at rest. -/
def broadcasting : State := withSlot aired ⟨.on, 16, none⟩

theorem test_broadcasting_slots : ∀ k : SlotIx, k ≠ 0 → broadcasting.slot k = Slot.rest := by decide +kernel

theorem test_broadcasting_slot : broadcasting.slot 0 = slotOf (plan 5000 300) fed ⟨.on, 16, none⟩ := by decide +kernel

/-- The premises of the selection laws hold together with a fed slot on the air. -/
theorem witness_selection_laws :
    broadcasting.SelectionLaw ∧ broadcasting.FallbackLaw ∧ broadcasting.ContentLaw ∧ broadcasting.LevelLaw := by
  refine ⟨fun k => ?_, by unfold State.FallbackLaw; decide +kernel, by unfold State.ContentLaw; decide +kernel, fun k n => ?_⟩
  · by_cases hk : k = 0
    · rw [hk, test_broadcasting_slot]
      refine ⟨nofun, fun u hu => ?_⟩
      cases u
      · exact ⟨rfl, rfl, by decide, nofun⟩
      · cases hu
    · rw [test_broadcasting_slots k hk]
      exact ⟨fun _ => ⟨rfl, rfl, rfl⟩, fun u hu => by cases u <;> cases hu⟩
  · by_cases hk : k = 0
    · rw [hk, test_broadcasting_slot]; cases n <;> exact ⟨by decide, by decide⟩
    · rw [test_broadcasting_slots k hk]; cases n <;> exact ⟨by decide, by decide⟩

/-- The premise of the validity law holds with an assigned slot. -/
theorem witness_validity_law : broadcasting.ValidityLaw := by
  refine ⟨⟨?_, ?_⟩, ⟨fun n img h => ?_, fun n img p h => ?_⟩, fun e k r h => ?_⟩
  · unfold SlotRecord.Fits; decide +kernel
  · decide +kernel
  · have hn : ∀ n, broadcasting.store.preset n = .empty := by decide +kernel
    rw [hn] at h; cases h
  · rcases h with h | h <;> cases h
  · cases h

/-- Slot 0 in its drain, in a state that is otherwise at rest. -/
def drained : State :=
  { (withSlot aired ⟨.rampDown, 3, some 2⟩).modSlot 0 fun x => { x with retuning := true } with
    engine := .draining (entryOf (.releaseSlot 0)) }

/-- Slot 0 in the drain of a LOAD_PRESET of preset 2, which the store holds. -/
def loadDrained : State :=
  stored { drained with engine := .draining (entryOf (.loadPreset 2)) } .idle { image with records := Vector.replicate 16 SlotRecord.rest }

/-- The same load with slot 0 OFF, its read waiting for an erase of preset 1. -/
def loadWaiting : State :=
  { loadDrained.modSlot 0 fun x => { x with ramp := .rest } with
    engine := .loading (entryOf (.loadPreset 2))
    store := { loadDrained.store with activity := .erasing 1 .a, pendingRead := some 2 } }

theorem test_store_of_a_load : ∀ n img, loadWaiting.store.preset n = .valid img → img.Rests := by
  have h : ∀ n, loadWaiting.store.preset n = if n = 2 then .valid { image with records := Vector.replicate 16 SlotRecord.rest } else .empty := by
    decide +kernel
  intro n img hn
  rw [h] at hn
  split at hn
  · cases hn; unfold PlanImage.Rests; decide +kernel
  · cases hn

/-- The premises of the laws of rest, of drains and of reads hold in a drain, in a load that drains, and in one that waits. -/
theorem witness_rest_law : loadWaiting.RestLaw ∧ loadWaiting.RampLaw := by
  refine ⟨⟨?_, ?_, ?_, test_store_of_a_load, fun n img p h => ?_⟩, ?_⟩
  · unfold Slot.Rests; decide +kernel
  · decide +kernel
  · decide +kernel
  · rcases h with h | h <;> cases h
  · unfold State.RampLaw Ramp.Lawful; decide +kernel

theorem witness_drain_laws : drained.DrainLaw ∧ loadDrained.DrainLaw ∧ loadWaiting.DrainLaw ∧ drained.BootLaw := by
  refine ⟨⟨?_, fun e h => ?_, ?_⟩, ⟨?_, fun e h => ?_, ?_⟩, ⟨?_, ?_, fun e h => ?_⟩, nofun, nofun⟩
  · rintro (h | h) <;> cases h
  · cases h; exact .inl ⟨0, .inr rfl, by decide +kernel⟩
  · intro e h; cases h
  · rintro (h | h) <;> cases h
  · cases h; exact .inr ⟨⟨2, rfl⟩, by decide +kernel⟩
  · intro e h; cases h
  · rintro (h | h) <;> cases h
  · intro e h; cases h
  · cases h; exact ⟨⟨2, rfl⟩, by decide +kernel⟩

theorem test_preset_of_a_load :
    loadDrained.store.preset 2 = .valid { image with records := Vector.replicate 16 SlotRecord.rest } ∧
      loadWaiting.store.preset 2 = .valid { image with records := Vector.replicate 16 SlotRecord.rest } := by decide +kernel

theorem witness_read_law : loadDrained.ReadLaw ∧ loadWaiting.ReadLaw := by
  have hd : loadDrained.engine = .draining (entryOf (.loadPreset 2)) ∧ loadDrained.store.activity = .idle ∧
      loadDrained.store.pendingRead = none := by decide +kernel
  have hw : loadWaiting.engine = .loading (entryOf (.loadPreset 2)) ∧ loadWaiting.store.activity = .erasing 1 .a ∧
      loadWaiting.store.pendingRead = some 2 := by decide +kernel
  have hp := test_preset_of_a_load
  unfold State.ReadLaw
  rw [hd.1, hd.2.1, hd.2.2, hw.1, hw.2.1, hw.2.2]
  refine ⟨⟨fun e n h hc => ?_, fun e n h => ?_, fun n h => ?_, fun n h => ?_⟩, fun e n h => ?_, fun e n h hc => ?_, fun n h => ?_,
    fun n h => ?_⟩
  · cases h
    have hn : n = 2 := (Change.loadPreset.inj hc).symm
    rw [hn]
    exact ⟨⟨_, hp.1⟩, by decide⟩
  · cases h
  · cases h
  · cases h
  · cases h
  · cases h
    have hn : n = 2 := (Change.loadPreset.inj hc).symm
    rw [hn]
    exact ⟨⟨_, hp.2⟩, .inr ⟨rfl, by decide, by decide⟩⟩
  · cases h
  · cases h; exact ⟨_, rfl, rfl⟩

/-- The boot read in progress. -/
def bootReading : State :=
  { State.reset with
    resetHeld := false
    store := { Store.factory with presets := Store.factory.presets.set 2 (.valid image), boot := some 2, activity := .reading 2 } }

theorem witness_boot_law : bootReading.BootLaw := by
  refine ⟨nofun, fun _ => ⟨by decide +kernel, rfl, rfl, rfl, rfl, rfl, rfl, nofun, fun _ => ⟨2, image, rfl, ?_, rfl⟩⟩⟩
  decide +kernel

end Sys2Proof.Tests
end

section
/-! PROOF. The tuning words (section 1.6): the rounding of R20, and the words that R19 gives a record. -/

namespace Sys2Proof.Machine

/-! ## The rounding (R20) -/

theorem roundedWord_of_nonneg {k : Int} (h : 0 ≤ k) : roundedWord k = (2 * (k * 16777216) + 375) / 750 := if_pos h

/-- Rounding ties away from zero treats the two signs alike, so it is odd. -/
theorem roundedWord_neg (k : Int) : roundedWord (-k) = -roundedWord k := by
  rcases lt_trichotomy k 0 with hk | rfl | hk
  · have hn : ¬ 0 ≤ k := by omega
    rw [roundedWord_of_nonneg (by omega : 0 ≤ -k), roundedWord, if_neg hn, neg_neg]
  · decide
  · have hn : ¬ 0 ≤ -k := by omega
    rw [roundedWord_of_nonneg hk.le, roundedWord, if_neg hn, neg_neg]

/-- The quotient lies within one half of x / 375. The half itself is a tie, which twice the distance, an even number, cannot be:
375 is odd. -/
theorem half_up_div_nearest (x : Int) : 2 * (375 * ((2 * x + 375) / 750) - x).natAbs < 375 := by
  have hlo : 750 * ((2 * x + 375) / 750) ≤ 2 * x + 375 := Int.mul_ediv_self_le (by decide)
  have hhi : 2 * x + 375 < 750 * ((2 * x + 375) / 750) + 750 := Int.lt_mul_ediv_self_add (by decide)
  have htie : 2 * (375 * ((2 * x + 375) / 750) - x) ≠ 375 := by omega
  omega

theorem roundedWord_nearest_of_nonneg {k : Int} (h : 0 ≤ k) :
    2 * (375 * roundedWord k - k * 16777216).natAbs < 375 := by
  rw [roundedWord_of_nonneg h]
  exact half_up_div_nearest (k * 16777216)

/-- A negative offset is as far from its rounding as its opposite is. -/
theorem roundedWord_nearest (k : Int) : 2 * (375 * roundedWord k - k * 16777216).natAbs < 375 := by
  rcases le_total 0 k with hk | hk
  · exact roundedWord_nearest_of_nonneg hk
  · have hneg := roundedWord_nearest_of_nonneg (neg_nonneg.mpr hk)
    rw [roundedWord_neg] at hneg
    omega

/-! ## The words (R19) -/

theorem tuningWord_toNat (k : Int) : (tuningWord k).toNat = (roundedWord k % 4294967296).toNat :=
  BitVec.toNat_ofInt (roundedWord k)

theorem wordsOf_out_of_assigned {r : SlotRecord} (h : r.assigned = true) : (wordsOf r).out = tuningWord r.output := by
  simp only [wordsOf, h, if_true]

theorem wordsOf_primary_of_assigned {r : SlotRecord} (h : r.assigned = true) :
    (wordsOf r).primary = tuningWord (-r.primary.offset) := by
  simp only [wordsOf, h, if_true]

theorem wordsOf_fallback_of_some {r : SlotRecord} {path : RxPath} (h : r.assigned = true) (hp : r.fallback = some path) :
    (wordsOf r).fallback = tuningWord (-path.offset) := by
  simp only [wordsOf, h, hp, if_true]

/-- Settles O11: the rounding is odd and within less than one half, and each word of a record is the tuning word that R19 names. -/
theorem tuningWordRoundsToTheNearest : Obligations.TuningWordRoundsToTheNearest := by
  unfold Obligations.TuningWordRoundsToTheNearest
  refine ⟨fun k => ⟨roundedWord_nearest k, roundedWord_neg k, tuningWord_toNat k⟩, fun r => ⟨wordsOf_of_unassigned, fun h => ?_⟩⟩
  exact ⟨wordsOf_out_of_assigned h, wordsOf_primary_of_assigned h, fun _ hp => wordsOf_fallback_of_some h hp,
    wordsOf_fallback_of_none⟩

end Sys2Proof.Machine
end

section
/-! PROOF. The Law of the Change Queue (R27). A submission issues a ticket that is not held, a taking moves one ticket from the queue
to the engine, a purge and a device reset only let go of tickets; every other command leaves the queue alone and puts no change in
flight. -/

namespace Sys2Proof.Machine

/-! ## The tickets held (R26) -/

/-- The ticket of the in-flight change, where there is one. -/
def Engine.tickets : Engine → List Byte
  | .draining e => [e.ticket]
  | .loading e => [e.ticket]
  | .booting => []
  | .idle => []

theorem State.heldTickets_eq (s : State) : s.heldTickets = s.changes.entries.map Entry.ticket ++ s.engine.tickets := by
  unfold State.heldTickets
  cases s.engine <;> rfl

theorem Engine.tickets_length_le (x : Engine) : x.tickets.length ≤ 1 := by
  cases x <;> simp [Engine.tickets]

theorem State.QueueLaw.heldTickets_length {s : State} (h : s.QueueLaw) : s.heldTickets.length ≤ 9 := by
  have he := s.engine.tickets_length_le
  have hq := h.1
  rw [State.heldTickets_eq, List.length_append, List.length_map]
  omega

theorem State.QueueLaw.nextTicket_not_held {s : State} (h : s.QueueLaw) : s.nextTicket ∉ s.heldTickets := by
  have hl := h.heldTickets_length
  obtain ⟨m, _, he, hf, _⟩ := freeTicket_first s.heldTickets s.changes.counter (by omega)
  rw [State.nextTicket, he]
  exact hf

/-! ## What leaves the queue alone -/

/-- The Change Queue is left alone, and no change comes in flight. -/
structure State.QueueFrame (s t : State) : Prop where
  changes : t.changes = s.changes
  inFlight : t.engine.tickets.Sublist s.engine.tickets

theorem State.QueueFrame.queueLaw {s t : State} (f : s.QueueFrame t) (h : s.QueueLaw) : t.QueueLaw := by
  obtain ⟨hlen, hnodup⟩ := h
  rw [State.heldTickets_eq] at hnodup
  refine ⟨f.changes ▸ hlen, ?_⟩
  rw [State.heldTickets_eq, f.changes]
  exact hnodup.sublist (f.inFlight.append_left _)

theorem State.queueFrame_of_eq {s t : State} (hc : t.changes = s.changes) (he : t.engine = s.engine) : s.QueueFrame t :=
  ⟨hc, by rw [he]⟩

theorem State.QueueFrame.refl (s : State) : s.QueueFrame s := State.queueFrame_of_eq rfl rfl

theorem State.QueueFrame.trans {s t u : State} (h : s.QueueFrame t) (g : t.QueueFrame u) : s.QueueFrame u :=
  ⟨g.changes.trans h.changes, g.inFlight.trans h.inFlight⟩

theorem State.queueFrame_of_idle {s t : State} (hc : t.changes = s.changes) (he : t.engine = .idle) : s.QueueFrame t :=
  ⟨hc, by rw [he]; exact List.nil_sublist _⟩

theorem State.QueueFrame.before {s t u : State} (g : t.QueueFrame u) (hc : t.changes = s.changes) (he : t.engine = s.engine) :
    s.QueueFrame u :=
  (State.queueFrame_of_eq hc he).trans g

theorem State.QueueFrame.fromIdle {s t u : State} (g : t.QueueFrame u) (hc : t.changes = s.changes) (he : t.engine = .idle) :
    s.QueueFrame u :=
  (State.queueFrame_of_idle hc he).trans g

theorem State.AirFrame.queueFrame {s t : State} (h : s.AirFrame t) : s.QueueFrame t := State.queueFrame_of_eq h.changes h.engine

theorem State.FeedFrame.queueFrame {s t : State} (h : s.FeedFrame t) : s.QueueFrame t := State.queueFrame_of_eq h.changes h.engine

theorem State.queueFrame_commit (s : State) (e : Entry) : s.QueueFrame (s.commit e) := State.queueFrame_of_eq rfl rfl

theorem State.queueFrame_applyRecord (s : State) (k : SlotIx) (r : SlotRecord) : s.QueueFrame (s.applyRecord k r) :=
  State.queueFrame_of_eq (s.recordFrame_applyRecord k r).changes (s.recordFrame_applyRecord k r).engine

/-! ### Ends of drains and trips -/

/-- A drain that ends applies its change, which is then in flight no more, or goes on to the read with the same change (R44, R47). -/
theorem State.queueFrame_endDrain (s : State) : s.QueueFrame s.endDrain := by
  have applied : ∀ k r e, s.QueueFrame ((({ s with engine := .idle }).applyRecord k r).commit e) := fun k r e =>
    ((State.queueFrame_applyRecord { s with engine := .idle } k r).trans (State.queueFrame_commit _ e)).fromIdle (s := s) rfl rfl
  unfold State.endDrain
  split
  · rename_i e he
    split
    · split
      · exact .refl s
      · exact applied _ _ _
    · split
      · exact .refl s
      · exact applied _ _ _
    · split
      · exact ⟨rfl, by rw [he]; exact List.Sublist.refl _⟩
      · exact .refl s
    · exact .refl s
  · exact .refl s

theorem State.queueFrame_afterOff (s : State) : s.QueueFrame s.afterOff :=
  s.queueFrame_endDrain.trans (State.airFrame_closeIfOff _).queueFrame

theorem State.queueFrame_trip (s : State) : s.QueueFrame s.trip := by
  unfold State.trip
  exact ((State.airFrame_forceOff _).queueFrame.trans (State.queueFrame_afterOff _)).before (s := s) rfl rfl

theorem State.queueFrame_leaveTripped (s : State) : s.QueueFrame s.leaveTripped := by
  unfold State.leaveTripped
  split
  · exact s.airFrame_enterWarmUp.queueFrame
  · exact (s.airFrame_setTx _).queueFrame

theorem State.queueFrame_changeLevel (s : State) (l : Protection) : s.QueueFrame (s.changeLevel l) := by
  have formed : s.QueueFrame ((({ s with out := { s.out with level := l } }).latchBoth .protection).formBudget).govern :=
    State.queueFrame_of_eq (by simp) (by simp)
  unfold State.changeLevel
  simp only
  split
  · split
    · exact formed.trans (State.queueFrame_trip _)
    · exact formed
  · split
    · exact formed.trans (State.queueFrame_leaveTripped _)
    · exact formed

theorem State.queueFrame_rampStepEvent (s : State) (k : SlotIx) : s.QueueFrame (s.rampStepEvent k) := by
  unfold State.rampStepEvent
  simp only
  split
  · exact (State.queueFrame_afterOff _).before (s := s) (by simp) (by simp)
  · exact State.queueFrame_of_eq rfl rfl

/-! ### Applications -/

theorem State.queueFrame_txEnableWritten (s : State) (v : Bool) : s.QueueFrame (s.txEnableWritten v) := by
  unfold State.txEnableWritten
  split
  · exact .refl s
  · split
    · exact s.airFrame_txEnabled.queueFrame
    · exact s.airFrame_txDisabled.queueFrame

theorem State.queueFrame_applyEnable (s : State) (k : SlotIx) (v : Bool) : s.QueueFrame (s.applyEnable k v) := by
  unfold State.applyEnable
  simp only
  split
  · exact (State.airFrame_wake _).queueFrame.before (s := s) (by simp) (by simp)
  · exact State.queueFrame_of_eq (by simp) (by simp)

theorem State.queueFrame_applyParams (s : State) (b rs wc q ho : Nat) : s.QueueFrame (s.applyParams b rs wc q ho) := by
  unfold State.applyParams
  exact (State.airFrame_measureQuiet _).queueFrame.before (s := s) (by simp) (by simp)

theorem State.queueFrame_applyTransmit (s : State) (v : Bool) : s.QueueFrame (s.applyTransmit v) :=
  (State.queueFrame_txEnableWritten { s with wide := { s.wide with txEnable := v } } _).before (s := s) rfl rfl

theorem State.queueFrame_applyClearLockout (s : State) : s.QueueFrame s.applyClearLockout := by
  unfold State.applyClearLockout
  simp only
  split
  · exact (State.airFrame_enterWarmUp _).queueFrame.before (s := s) rfl rfl
  · exact State.queueFrame_of_eq rfl rfl

/-! ### Reads, boots and the other events -/

theorem State.queueFrame_loadImage (s : State) (img : PlanImage) : s.QueueFrame (s.loadImage img) := by
  obtain ⟨_, hengine, _, hchanges, _⟩ := s.loadImage_rest img
  exact State.queueFrame_of_idle hchanges hengine

theorem State.queueFrame_endBoot (s : State) (r : BootResult) : s.QueueFrame (s.endBoot r) := by
  unfold State.endBoot
  exact (State.queueFrame_txEnableWritten _ _).fromIdle (s := s) rfl rfl

theorem State.queueFrame_completeLoad (s : State) (e : Entry) (img : PlanImage) : s.QueueFrame (s.completeLoad e img) :=
  ((s.queueFrame_loadImage img).trans (State.queueFrame_commit _ e)).trans (State.queueFrame_txEnableWritten _ _)

theorem State.queueFrame_completeBoot (s : State) (img : PlanImage) : s.QueueFrame (s.completeBoot img) :=
  (s.queueFrame_loadImage img).trans
    ((State.queueFrame_endBoot { (s.loadImage img) with generation := s.generation + 1 } _).before (s := s.loadImage img) rfl rfl)

theorem State.queueFrame_endRead (s : State) : s.QueueFrame s.endRead := by
  unfold State.endRead
  split
  · simp only
    split
    · exact (State.queueFrame_completeLoad _ _ _).before (s := s) rfl rfl
    · exact (State.queueFrame_completeBoot _ _).before (s := s) rfl rfl
    · exact .refl s
  · exact .refl s

theorem State.queueFrame_endOfReset (s : State) (hi lo : Bool) : s.QueueFrame (s.endOfReset hi lo) := by
  have released : s.QueueFrame (s.released hi lo) := State.queueFrame_of_eq (by simp) (by simp)
  rw [State.endOfReset_eq]
  rcases (s.released hi lo).bootDecision_cases with ⟨_, e⟩ | ⟨_, _, _, e⟩ | ⟨_, _, _, e⟩ | ⟨_, _, _, _, e⟩ <;> rw [e]
  · exact released.trans (State.queueFrame_endBoot _ _)
  · exact released.trans (State.queueFrame_endBoot _ _)
  · exact released.trans (State.queueFrame_endBoot _ _)
  · exact released.trans (State.queueFrame_of_eq rfl rfl)

theorem State.queueFrame_moveReceiver (s : State) (f : Feed) (r : Receiver) : s.QueueFrame (s.moveReceiver f r) := by
  unfold State.moveReceiver
  simp only
  split <;> exact State.queueFrame_of_eq (by simp) (by simp)

theorem State.queueFrame_lostMarker (s : State) (f : Feed) : s.QueueFrame (s.lostMarker f) := by
  unfold State.lostMarker
  simp only
  split
  · exact s.queueFrame_moveReceiver f _
  · exact (s.queueFrame_moveReceiver f _).trans (State.feedFrame_unlockSweep _ f).queueFrame

theorem State.queueFrame_monitor (s : State) (v : Levels) : s.QueueFrame (s.monitor v) :=
  (State.feedFrame_measureSweep { s with monitorIn := 10 } v).queueFrame.before (s := s) rfl rfl

theorem State.queueFrame_expireHoldOff (s : State) (k : SlotIx) : s.QueueFrame (s.expireHoldOff k) := by
  unfold State.expireHoldOff
  simp only
  split
  · exact (s.feedFrame_applySelection k _).queueFrame
  · exact State.queueFrame_of_eq rfl rfl

theorem State.queueFrame_setHold (s : State) (p : Port) (v : Bool) : s.QueueFrame (s.setHold p v) := by
  unfold State.setHold
  simp only
  split <;> exact State.queueFrame_of_eq (by simp) (by simp)

theorem State.queueFrame_silence (s : State) (p : Port) : s.QueueFrame (s.silence p) :=
  (State.queueFrame_setHold _ p false).before (s := s) rfl rfl

/-! ## Takings -/

/-- The state in which a taken entry is in flight: it has left the queue, and the engine holds its ticket. -/
def State.inFlightWith (s : State) (e : Entry) : State := { s.without e with engine := .draining e }

theorem ChangeQueue.mem_of_next {q : ChangeQueue} {e : Entry} (h : q.next = some e) : e ∈ q.entries := by
  unfold ChangeQueue.next at h
  split at h
  · rename_i x hx
    obtain rfl := Option.some.inj h
    exact List.mem_of_find?_eq_some hx
  · exact List.mem_of_mem_head? h

/-- A ticket that goes from the queue to an engine with nothing in flight is held as often as before. -/
theorem State.QueueLaw.inFlightWith {s : State} (h : s.QueueLaw) {e : Entry} (hi : s.engine = .idle)
    (hm : e ∈ s.changes.entries) : (s.inFlightWith e).QueueLaw := by
  obtain ⟨hlen, hnodup⟩ := h
  have held : s.heldTickets.Perm (s.inFlightWith e).heldTickets := by
    have before : s.heldTickets = s.changes.entries.map Entry.ticket := by
      rw [State.heldTickets_eq, hi, Engine.tickets, List.append_nil]
    rw [before, State.heldTickets_eq]
    exact ((List.perm_cons_erase hm).map Entry.ticket).trans (List.perm_append_singleton _ _).symm
  exact ⟨List.length_erase_le.trans hlen, held.nodup hnodup⟩

/-- What an engine in IDLE carries out leaves the queue alone, and puts at most its own entry in flight (R41, R43, R47). -/
theorem State.queueFrame_carryOut {s : State} (hi : s.engine = .idle) (e : Entry) :
    ({ s with engine := .draining e } : State).QueueFrame (s.carryOut e) := by
  have atOnce : ∀ {u : State}, s.QueueFrame u → ({ s with engine := .draining e } : State).QueueFrame (u.commit e) := fun hu =>
    (hu.trans (State.queueFrame_commit _ e)).fromIdle rfl hi
  have slotChange : ∀ k r, ({ s with engine := .draining e } : State).QueueFrame (s.takeSlotChange e k r) := fun k r => by
    unfold State.takeSlotChange
    split
    · exact (State.queueFrame_afterOff _).before (by simp) (by simp)
    · exact atOnce (s.queueFrame_applyRecord k r)
  unfold State.carryOut
  split
  · exact slotChange _ _
  · exact slotChange _ _
  · exact atOnce (State.queueFrame_of_eq (by simp) (by simp))
  · exact atOnce (State.queueFrame_of_eq rfl rfl)
  · exact atOnce (s.queueFrame_applyEnable _ _)
  · exact atOnce (s.queueFrame_applyParams _ _ _ _ _)
  · exact atOnce (s.queueFrame_applyTransmit _)
  · unfold State.takeLoad
    exact (State.queueFrame_afterOff _).before (by simp) (by simp)
  · exact atOnce s.queueFrame_applyClearLockout

theorem State.queueFrame_takeEntry {s : State} (hi : s.engine = .idle) (e : Entry) :
    ({ s with engine := .draining e } : State).QueueFrame (s.takeEntry e) := by
  have refused : ∀ c, ({ s with engine := .draining e } : State).QueueFrame (s.refuseChange e c) := fun _ =>
    State.queueFrame_of_idle rfl hi
  unfold State.takeEntry
  split
  · exact refused _
  · split
    · exact refused _
    · -- clamping leaves the ticket
      have clamped := State.queueFrame_carryOut hi { e with change := clampChange e.change }
      exact ⟨clamped.changes, clamped.inFlight⟩

theorem State.QueueLaw.takeKind {s : State} (h : s.QueueLaw) (kind : ChangeKind) : (s.takeKind kind).QueueLaw := by
  unfold State.takeKind
  split
  · rename_i e hdue
    obtain ⟨hi, hnext⟩ := Option.ite_none_right_eq_some.mp hdue
    split
    · have taken : (s.inFlightWith e).QueueFrame ((s.without e).takeEntry e) := State.queueFrame_takeEntry (s := s.without e) hi e
      exact taken.queueLaw (h.inFlightWith hi (ChangeQueue.mem_of_next hnext))
    · exact h
  · exact h

/-! ## Submissions and purges -/

/-- An acceptance at a queue with room appends one entry, whose ticket nothing holds (R25, R26). -/
theorem State.QueueLaw.accept {s : State} (h : s.QueueLaw) (hroom : s.changes.entries.length < 8) (p : Port) (m : Submitted) :
    (s.accept p m).QueueLaw := by
  have held : (s.accept p m).heldTickets.Perm (s.nextTicket :: s.heldTickets) := by
    rw [State.heldTickets_eq, State.heldTickets_eq]
    simp only [State.accept, List.map_append, List.map_cons, List.map_nil, List.append_assoc, List.singleton_append]
    exact List.perm_middle
  refine ⟨?_, held.nodup_iff.mpr (List.nodup_cons.mpr ⟨h.nextTicket_not_held, h.2⟩)⟩
  simp only [State.accept, List.length_append, List.length_singleton]
  omega

theorem State.QueueLaw.served {s : State} (h : s.QueueLaw) (p : Port) : (s.served p).QueueLaw := h

theorem State.QueueLaw.submit {s : State} (h : s.QueueLaw) (p : Port) (w : List Byte) : (s.submit p w).2.QueueLaw := by
  unfold State.submit
  split
  · exact h.served p
  · split
    · exact h.served p
    · rename_i hroom
      exact (h.served p).accept (not_le.mp hroom) p _

/-- Of the queued commands SUBMIT_CHANGE alone reaches the Change Queue. -/
theorem State.act_changes (s : State) (p : Port) {c : Command} (hc : c ≠ .submitChange) (w : List Byte) :
    (s.act p c w).2.changes = s.changes := by
  have store : ∀ op, (s.storeCommand p op).2.changes = s.changes := fun op => by
    unfold State.storeCommand
    split <;> rfl
  cases c with
  | submitChange => exact absurd rfl hc
  | readSlot => simp only [State.act, State.doReadSlot]; split <;> rfl
  | setPeerFlags => simp only [State.act, State.doSetPeer]; split <;> rfl
  | scanRange => simp only [State.act, State.doScanRange]; split <;> rfl
  | savePreset =>
    simp only [State.act, State.doSave]
    split
    · exact store _
    · rfl
  | erasePreset =>
    simp only [State.act, State.doErase]
    split
    · exact store _
    · rfl
  | setBoot =>
    simp only [State.act, State.doSetBoot]
    split
    · exact store _
    · rfl
  | _ => rfl

theorem State.QueueLaw.act {s : State} (h : s.QueueLaw) (p : Port) (c : Command) (w : List Byte) : (s.act p c w).2.QueueLaw := by
  by_cases hc : c = .submitChange
  · subst hc
    exact h.submit p w
  · exact (State.queueFrame_of_eq (s.act_changes p hc w) (s.deskFrame_act p c w).engine).queueLaw h

theorem State.purge_changes (s : State) (p : Port) :
    (s.purge p).changes = { s.changes with entries := s.changes.entries.filter fun e => e.origin != p } := by
  have recorded : ∀ (l : List Entry) (t : State),
      (l.foldl (fun t e => t.placeOutcome p (e.outcome .purged none)) t).changes = t.changes := by
    intro l
    induction l with
    | nil => exact fun _ => rfl
    | cons e l ih => exact fun t => ih _
  exact recorded _ _

/-- A purge takes entries out, and their tickets with them (R32). -/
theorem State.QueueLaw.purge {s : State} (h : s.QueueLaw) (p : Port) : (s.purge p).QueueLaw := by
  obtain ⟨hlen, hnodup⟩ := h
  rw [State.heldTickets_eq] at hnodup
  constructor
  · rw [State.purge_changes]
    exact (List.length_filter_le _ _).trans hlen
  · rw [State.heldTickets_eq, State.purge_changes, (s.deskFrame_purge p).engine]
    exact hnodup.sublist (((List.filter_sublist).map _).append_right _)

theorem State.QueueLaw.desk {s t : State} (h : s.QueueLaw) (m : s.DeskMove t) : t.QueueLaw :=
  m.keeps (fun _ _ _ hs => hs) (fun _ p c w hs => hs.act p c w) (fun _ p hs => hs.purge p) h

/-! ## Every command and every step -/

theorem State.queueLaw_deviceReset (s : State) : s.deviceReset.QueueLaw := ⟨Nat.zero_le _, List.nodup_nil⟩

theorem State.QueueLaw.exec {c : Instr} {s t : State} (h : s.QueueLaw) (hx : exec c s = .next t) : t.QueueLaw := by
  refine exec_cases (P := fun s t => s.QueueLaw → t.QueueLaw)
    (same := fun _ hs => hs)
    (desk := fun _ _ m hs => hs.desk m)
    (reset := fun s _ => s.queueLaw_deviceReset)
    (endOfReset := fun s hi lo _ => (s.queueFrame_endOfReset hi lo).queueLaw)
    (sound := fun s f => (s.queueFrame_moveReceiver f _).queueLaw)
    (lost := fun s f => (s.queueFrame_lostMarker f).queueLaw)
    (monitor := fun s v => (s.queueFrame_monitor v).queueLaw)
    (holdOff := fun s k _ => (s.queueFrame_expireHoldOff k).queueLaw)
    (stepEvent := fun s k _ => (s.queueFrame_rampStepEvent k).queueLaw)
    (lines := fun _ _ _ hs => hs)
    (level := fun s hi lo _ _ => (State.queueFrame_changeLevel (s.setLines hi lo) _).queueLaw)
    (warmUp := fun s _ => s.airFrame_enterOnAir.queueFrame.queueLaw)
    (quiet := fun s _ => s.airFrame_quietExpired.queueFrame.queueLaw)
    (departure := fun _ hs => hs)
    (taking := fun _ kind hs => hs.takeKind kind)
    (endErasing := fun s hs => ?_) (endProgramming := fun s v hs => ?_) (endErase := fun s hs => ?_)
    (endBootWrite := fun s hs => ?_)
    (endRead := fun s => s.queueFrame_endRead.queueLaw)
    (hold := fun s p v => (State.queueFrame_setHold (s.releaseUrgent p) p v).queueLaw)
    (silence := fun s p => (s.queueFrame_silence p).queueLaw) hx h
  · unfold State.endErasing; split <;> exact hs
  · unfold State.endProgramming; split <;> exact hs
  · unfold State.endErase; split <;> exact hs
  · unfold State.endBootWrite; split <;> exact hs

theorem State.QueueLaw.tick {s : State} (h : s.QueueLaw) : s.tick.QueueLaw :=
  (State.queueFrame_of_eq s.tick_changes s.tick_engine).queueLaw h

/-- Settles O15: no command breaks the law, and the passing of time and the bookkeeping of a step do not touch what it reads. -/
theorem everyStepKeepsTheQueueLaw : Obligations.EveryStepKeepsTheQueueLaw := by
  unfold Obligations.EveryStepKeepsTheQueueLaw
  exact fun s t h hstep => step_keeps (fun _ _ _ hx hs => hs.exec hx) (fun _ _ _ hs => hs) (fun _ hs => hs.tick) hstep h

end Sys2Proof.Machine
end

section
/-! PROOF. A feed receiver in SEARCH (R56): what each marker makes of the receiver, and of the state, according to whether the
receiver's lock changes (R58). -/

namespace Sys2Proof.Machine

/-! ## The receiver at a marker (Table 3.1.1) -/

theorem Receiver.goodMarker_of_search_of_lt {r : Receiver} (h : r.link = .search) (hg : r.good < 7) :
    r.goodMarker = { r with good := r.good + 1 } := by
  simp only [Receiver.goodMarker, h, if_pos hg]

theorem Receiver.goodMarker_of_search_of_le {r : Receiver} (h : r.link = .search) (hg : 7 ≤ r.good) :
    r.goodMarker = ⟨.locked, 0, 0⟩ := by
  simp only [Receiver.goodMarker, h, if_neg hg.not_gt]

theorem Receiver.badMarker_of_search {r : Receiver} (h : r.link = .search) : r.badMarker = { r with good := 0 } := by
  simp only [Receiver.badMarker, h]

/-! ## The state at a marker (R58) -/

theorem State.moveReceiver_of_link_eq {s : State} {f : Feed} {r : Receiver} (h : r.link = (s.receiver f).link) :
    s.moveReceiver f r = s.putReceiver f r := if_pos h

theorem State.moveReceiver_of_link_ne {s : State} {f : Feed} {r : Receiver} (h : r.link ≠ (s.receiver f).link) :
    s.moveReceiver f r = (s.putReceiver f r).latchBoth .feed := if_neg h

/-- Without an unlock, a lost marker forces no path BAD (R65): the receiver alone moves. -/
theorem State.lostMarker_of_link_eq {s : State} {f : Feed} (h : (s.receiver f).badMarker.link = (s.receiver f).link) :
    s.lostMarker f = s.putReceiver f (s.receiver f).badMarker :=
  (if_pos h).trans (State.moveReceiver_of_link_eq h)

/-! ## The commands -/

theorem exec_goodMarker (f : Feed) (s : State) : exec (.goodMarker f) s = .next (s.soundMarker f) := rfl

theorem exec_badMarker (f : Feed) (s : State) : exec (.badMarker f) s = .next (s.lostMarker f) := rfl

/-- A missing marker counts as a bad one (R55). -/
theorem exec_missingMarker (f : Feed) (s : State) : exec (.missingMarker f) s = exec (.badMarker f) s := rfl

/-! ## A receiver in SEARCH (R56) -/

theorem State.soundMarker_of_search_of_lt {s : State} {f : Feed} (h : (s.receiver f).link = .search)
    (hg : (s.receiver f).good < 7) :
    s.soundMarker f = s.putReceiver f { s.receiver f with good := (s.receiver f).good + 1 } := by
  rw [State.soundMarker, Receiver.goodMarker_of_search_of_lt h hg]
  exact State.moveReceiver_of_link_eq rfl

/-- The eighth good marker changes the lock, so it sets FEED on both ports. -/
theorem State.soundMarker_of_search_of_le {s : State} {f : Feed} (h : (s.receiver f).link = .search)
    (hg : 7 ≤ (s.receiver f).good) :
    s.soundMarker f = (s.putReceiver f ⟨.locked, 0, 0⟩).latchBoth .feed := by
  have hlock : LinkState.locked ≠ (s.receiver f).link := by rw [h]; decide
  rw [State.soundMarker, Receiver.goodMarker_of_search_of_le h hg]
  exact State.moveReceiver_of_link_ne hlock

theorem State.lostMarker_of_search {s : State} {f : Feed} (h : (s.receiver f).link = .search) :
    s.lostMarker f = s.putReceiver f { s.receiver f with good := 0 } := by
  have hbad := Receiver.badMarker_of_search h
  have hlink : (s.receiver f).badMarker.link = (s.receiver f).link := by rw [hbad]
  rw [State.lostMarker_of_link_eq hlink, hbad]

/-- Settles O28: below seven the count grows and the lock stays, at seven the lock changes, and a lost marker in SEARCH is no
unlock. -/
theorem searchingReceiverLocksAtTheEighthMarker : Obligations.SearchingReceiverLocksAtTheEighthMarker := by
  unfold Obligations.SearchingReceiverLocksAtTheEighthMarker
  intro s f h
  have hbad : exec (.badMarker f) s = .next (s.putReceiver f { s.receiver f with good := 0 }) := by
    rw [exec_badMarker, State.lostMarker_of_search h]
  refine ⟨fun hg => ?counts, fun hg => ?locks, hbad, (exec_missingMarker f s).trans hbad⟩
  case counts => rw [exec_goodMarker, State.soundMarker_of_search_of_lt h hg]
  case locks => rw [exec_goodMarker, State.soundMarker_of_search_of_le h hg, State.latchBoth]

end Sys2Proof.Machine
end

section
/-! PROOF. The law of the Level Governor (R105): each grant is formed from the slot's request, and requests scaled by the effective
budget over their own sum, each rounded down, sum to at most the effective budget. -/

namespace Sys2Proof.Machine

/-! ## The request and the grant of one slot (R102, R104) -/

theorem Slot.request_eq_ite (x : Slot) : x.request = if x.ramp.state = .off then 0 else x.record.power := by
  by_cases h : x.ramp.state = .off <;> simp [Slot.request, Slot.transmitting, h]

theorem Slot.request_of_ne_off {x : Slot} (h : x.ramp.state ≠ .off) : x.request = x.record.power := by
  rw [Slot.request_eq_ite, if_neg h]

theorem Slot.request_le_power (x : Slot) : x.request ≤ x.record.power := by
  rw [Slot.request_eq_ite]; split
  · exact Nat.zero_le _
  · exact le_rfl

theorem grantOf_of_le {b d : Nat} (h : d ≤ b) (x : Slot) : grantOf b d x = x.request := by
  simp only [grantOf, Slot.request, if_pos h]

theorem grantOf_of_lt {b d : Nat} (h : b < d) (x : Slot) : grantOf b d x = x.request * b / d := by
  rw [grantOf, if_neg h.not_ge, Slot.request]
  split
  · rfl
  · rw [Nat.zero_mul, Nat.zero_div]

theorem grantOf_le_request (b d : Nat) (x : Slot) : grantOf b d x ≤ x.request := by
  rcases le_or_gt d b with h | h
  · exact (grantOf_of_le h x).le
  · rw [grantOf_of_lt h]
    exact Nat.div_le_of_le_mul (by rw [Nat.mul_comm d]; exact Nat.mul_le_mul_left _ h.le)

/-! ## Sums over the slots -/

theorem State.slotValues_sum_le {s : State} {f g : Slot → Nat} (h : ∀ k, f (s.slot k) ≤ g (s.slot k)) :
    (s.slotValues f).sum ≤ (s.slotValues g).sum :=
  List.sum_le_sum fun k _ => h k

theorem State.slotValues_sum_mul (s : State) (f : Slot → Nat) (c : Nat) :
    (s.slotValues fun x => f x * c).sum = (s.slotValues f).sum * c :=
  List.sum_map_mul_right ..

theorem slotIndices_eq_finRange : slotIndices = List.finRange 16 := by decide

theorem State.demand_eq_sum_power (s : State) :
    s.demand =
      ((List.finRange 16).map fun k : SlotIx => if (s.slot k).ramp.state = .off then 0 else (s.slot k).record.power).sum := by
  simp only [State.demand, State.slotValues, slotIndices_eq_finRange, Slot.request_eq_ite]

/-- Where the demand does not fit, the scaled requests fit after the rounding down: times the demand, they are at most the demand
times the effective budget. -/
theorem State.sum_grantOf_le (s : State) (b : Nat) : (s.slotValues (grantOf b s.demand)).sum ≤ b := by
  rcases le_or_gt s.demand b with h | h
  · calc (s.slotValues (grantOf b s.demand)).sum
        ≤ s.demand := State.slotValues_sum_le fun k => grantOf_le_request _ _ _
      _ ≤ b := h
  · refine Nat.le_of_mul_le_mul_right ?_ (Nat.zero_lt_of_lt h)
    calc (s.slotValues (grantOf b s.demand)).sum * s.demand
        = (s.slotValues fun x => grantOf b s.demand x * s.demand).sum := (s.slotValues_sum_mul _ _).symm
      _ ≤ (s.slotValues fun x => x.request * b).sum := State.slotValues_sum_le fun k => by
          rw [grantOf_of_lt h]; exact Nat.div_mul_le_self _ _
      _ = s.demand * b := s.slotValues_sum_mul _ _
      _ = b * s.demand := Nat.mul_comm _ _

/-! ## The share of a slot (R95, R111) -/

theorem Ramp.Lawful.step_le {r : Ramp} (h : r.Lawful) : r.step ≤ 16 := by
  obtain ⟨hoff, hup, hon, hdown⟩ := h
  cases hst : r.state with
  | off => rw [(hoff hst).1]; decide
  | rampUp => exact (hup hst).1.trans (by decide)
  | on => exact (hon hst).1.le
  | rampDown => exact (hdown hst).2.1

theorem shareOf_le {g n : Nat} (h : n ≤ 16) : shareOf g n ≤ g :=
  Nat.div_le_of_le_mul (by rw [Nat.mul_comm 16]; exact Nat.mul_le_mul_left g h)

/-! ## The law (R105) -/

namespace State.GovernorLaw

theorem grant_eq {s : State} (h : s.GovernorLaw) (k : SlotIx) : (s.slot k).grant = grantOf s.bEff s.demand (s.slot k) :=
  (h.2 k).1

theorem share_eq {s : State} (h : s.GovernorLaw) (k : SlotIx) :
    (s.slot k).share = shareOf (s.slot k).grant (s.slot k).ramp.step :=
  (h.2 k).2

theorem grantSum_le {s : State} (h : s.GovernorLaw) : s.grantSum ≤ s.bEff :=
  calc s.grantSum ≤ (s.slotValues (grantOf s.bEff s.demand)).sum := State.slotValues_sum_le fun k => (h.grant_eq k).le
    _ ≤ s.bEff := s.sum_grantOf_le s.bEff

theorem grantLaw {s : State} (h : s.GovernorLaw) : s.GrantLaw := by
  refine ⟨h.grantSum_le, fun k => ⟨?request, fun hoff => ?off⟩⟩
  case request => rw [h.grant_eq]; exact (grantOf_le_request _ _ _).trans (s.slot k).request_le_power
  case off => rw [h.grant_eq, grantOf_off hoff]

theorem share_le_grant {s : State} (h : s.GovernorLaw) (hr : s.RampLaw) (k : SlotIx) : (s.slot k).share ≤ (s.slot k).grant := by
  rw [h.share_eq]; exact shareOf_le (hr k).step_le

theorem shareSum_le {s : State} (h : s.GovernorLaw) (hr : s.RampLaw) : s.shareSum ≤ s.bEff :=
  (State.slotValues_sum_le (h.share_le_grant hr)).trans h.grantSum_le

end State.GovernorLaw

/-- Settles O38: the law follows from the computation of the grants by the bound on the scaled requests, the shares from the bound on
the steps. -/
theorem grantsNeverExceedTheEffectiveBudget : Obligations.GrantsNeverExceedTheEffectiveBudget := by
  unfold Obligations.GrantsNeverExceedTheEffectiveBudget
  intro s h
  refine ⟨h.grantLaw, fun hr => ⟨h.share_le_grant hr, h.shareSum_le hr⟩, s.demand_eq_sum_power, fun k hk => ⟨fun hd => ?fits,
    fun hd => ?scaled⟩⟩
  case fits => rw [h.grant_eq, grantOf_of_le hd, Slot.request_of_ne_off hk]
  case scaled => rw [h.grant_eq, grantOf_of_lt hd, Slot.request_of_ne_off hk]

end Sys2Proof.Machine
end

section
/-! PROOF. The laws of what is on the air: a law that reads only the slots, the output, the plan-wide fields and the effective
budget is kept by every step where the operations that move these keep it. The laws of the ramps, the governor, the Output
Controller and the selection are of this kind. -/

namespace Sys2Proof.Machine

/-! ## What the laws of the air read -/

/-- The two states have the same slots, output, plan-wide fields and effective budget. -/
structure State.SameAir (s t : State) : Prop where
  slots : t.slots = s.slots
  out : t.out = s.out
  wide : t.wide = s.wide
  bEff : t.bEff = s.bEff

theorem State.DeskFrame.sameAir {s t : State} (h : s.DeskFrame t) : s.SameAir t := ⟨h.slots, h.out, h.wide, h.bEff⟩

/-! ## The store's own events (chapter 8) -/

/-- Nothing but the store and the ports has moved. -/
def State.StoreMove (s t : State) : Prop := t = { s with store := t.store, ports := t.ports }

theorem State.StoreMove.sameAir {s t : State} (h : s.StoreMove t) : s.SameAir t := by
  rw [h]
  exact ⟨rfl, rfl, rfl, rfl⟩

theorem State.storeMove_endErasing (s : State) : s.StoreMove s.endErasing := by
  unfold State.endErasing
  split <;> rfl

theorem State.storeMove_endProgramming (s : State) (v : Bool) : s.StoreMove (s.endProgramming v) := by
  unfold State.endProgramming
  split <;> rfl

theorem State.storeMove_endErase (s : State) : s.StoreMove s.endErase := by
  unfold State.endErase
  split <;> rfl

theorem State.storeMove_endBootWrite (s : State) : s.StoreMove s.endBootWrite := by
  unfold State.endBootWrite
  split <;> rfl

/-! ## Every step -/

theorem State.sameAir_moveReceiver (s : State) (f : Feed) (r : Receiver) : s.SameAir (s.moveReceiver f r) := by
  obtain ⟨hslots, hout, hwide, hbEff⟩ := s.moveReceiver_slots f r
  exact ⟨hslots, hout, hwide, hbEff⟩

/-- A law of the air is kept by every command that touches the air where it is kept by the operations that do. -/
theorem exec_keeps_airLaw {P : State → Prop} (sameAir : ∀ s t, s.SameAir t → P s → P t) (reset : ∀ s : State, P s.deviceReset)
    (endOfReset : ∀ s hi lo, P s → P (s.endOfReset hi lo)) (lost : ∀ s f, P s → P (s.lostMarker f))
    (monitor : ∀ s v, P s → P (s.monitor v)) (holdOff : ∀ s k, P s → P (s.expireHoldOff k))
    (stepEvent : ∀ s k, P s → P (s.rampStepEvent k)) (level : ∀ s l, P s → P (s.changeLevel l))
    (warmUp : ∀ s, s.out.state = .warmUp → P s → P s.enterOnAir) (quiet : ∀ s, P s → P s.quietExpired)
    (departure : ∀ s, P s → P { s with out := { s.out with trips := s.out.trips.tail } })
    (taking : ∀ s kind, P s → P (s.takeKind kind)) (endRead : ∀ s, P s → P s.endRead)
    (hold : ∀ s p v, P s → P (s.setHold p v)) {c : Instr} {s t : State} (h : exec c s = .next t) : P s → P t :=
  exec_cases (P := fun s t => P s → P t)
    (same := fun _ hs => hs)
    (desk := fun s t m => sameAir s t m.frame.sameAir)
    (reset := fun s _ => reset s)
    (endOfReset := fun s hi lo _ => endOfReset s hi lo)
    (sound := fun s f => sameAir s _ (s.sameAir_moveReceiver f _))
    (lost := lost) (monitor := monitor) (holdOff := fun s k _ => holdOff s k) (stepEvent := fun s k _ => stepEvent s k)
    (lines := fun s _ _ => sameAir s _ ⟨rfl, rfl, rfl, rfl⟩)
    (level := fun s _ _ _ _ hs => level _ _ (sameAir s _ ⟨rfl, rfl, rfl, rfl⟩ hs))
    (warmUp := warmUp) (quiet := fun s _ => quiet s) (departure := departure) (taking := taking)
    (endErasing := fun s => sameAir s _ s.storeMove_endErasing.sameAir)
    (endProgramming := fun s v => sameAir s _ (s.storeMove_endProgramming v).sameAir)
    (endErase := fun s => sameAir s _ s.storeMove_endErase.sameAir)
    (endBootWrite := fun s => sameAir s _ s.storeMove_endBootWrite.sameAir)
    (endRead := endRead)
    (hold := fun s p v hs => hold _ p v (sameAir s _ ⟨rfl, rfl, rfl, rfl⟩ hs))
    (silence := fun s p hs => hold _ p false (sameAir s _ ⟨rfl, rfl, rfl, rfl⟩ hs)) h

/-- A law of the air that every command and the passing of a millisecond keep is kept by every step. -/
theorem step_keeps_airLaw {P : State → Prop} (sameAir : ∀ s t, s.SameAir t → P s → P t)
    (command : ∀ c s t, exec c s = .next t → P s → P t) (tick : ∀ s, P s → P s.tick) {s t : State}
    (h : step s = .next t) (hs : P s) : P t :=
  step_keeps command (fun s _ _ => sameAir s _ ⟨rfl, rfl, rfl, rfl⟩) tick h hs

/-! ## The ramps (R88, R95) -/

theorem State.RampLaw.tick {s : State} (h : s.RampLaw) : s.tick.RampLaw := fun k => by
  obtain ⟨hoff, hup, hon, hdown⟩ := h k
  simp only [State.slot_tick]
  exact ⟨fun e => ⟨(hoff e).1, by simp [countDown, (hoff e).2]⟩, fun e => ⟨(hup e).1, by simp [countDown, (hup e).2]⟩,
    fun e => ⟨(hon e).1, by simp [countDown, (hon e).2]⟩,
    fun e => ⟨(hdown e).1, (hdown e).2.1, by simp [countDown, (hdown e).2.2]⟩⟩

theorem State.DemandLaw.tick {s : State} (h : s.DemandLaw) : s.tick.DemandLaw :=
  h.of_same (fun k => by simp [State.slot_tick]) (State.airOpen_congr (by simp) (by simp))
    (fun k => by simp only [State.slot_tick]; exact Slot.wanted_congr rfl rfl rfl)

/-- No slot moves up or is ON on a demand that the hold set forbids (R88, R95). -/
theorem State.DemandLaw.holdLaw {s : State} (h : s.DemandLaw) : s.HoldLaw := fun hold k =>
  h.up_closed (by simp [State.airOpen, hold]) k

theorem State.rampLaw_deviceReset (s : State) : s.deviceReset.RampLaw := fun k => by
  simp [Ramp.Lawful, Slot.rest, Ramp.rest]

theorem State.demandLaw_deviceReset (s : State) : s.deviceReset.DemandLaw :=
  State.demandLaw_of_closed rfl fun k => by simp [Slot.rest, Ramp.rest]

theorem exec_keeps_rampLaw {c : Instr} {s t : State} (h : exec c s = .next t) : s.RampLaw → t.RampLaw :=
  exec_keeps_airLaw (fun _ _ a hs => hs.same a.slots) State.rampLaw_deviceReset (fun _ hi lo hs => hs.endOfReset hi lo)
    (fun _ f hs => hs.lostMarker f) (fun _ v hs => hs.monitor v) (fun _ k hs => hs.expireHoldOff k)
    (fun _ k hs => hs.rampStepEvent k) (fun _ l hs => hs.changeLevel l) (fun _ _ hs => hs.enterOnAir)
    (fun _ hs => hs.quietExpired) (fun _ hs => hs) (fun _ kind hs => hs.takeKind kind) (fun _ hs => hs.endRead)
    (fun _ p v hs => hs.setHold p v) h

theorem exec_keeps_demandLaw {c : Instr} {s t : State} (h : exec c s = .next t) : s.DemandLaw → t.DemandLaw :=
  exec_keeps_airLaw (fun _ _ a hs => hs.same a.slots (State.airOpen_congr (by rw [a.out]) (by rw [a.out])))
    State.demandLaw_deviceReset (fun _ hi lo hs => hs.endOfReset hi lo)
    (fun _ f hs => hs.lostMarker f) (fun _ v hs => hs.monitor v) (fun _ k hs => hs.expireHoldOff k)
    (fun _ k hs => hs.rampStepEvent k) (fun _ l hs => hs.changeLevel l) (fun s _ _ => s.demandLaw_enterOnAir)
    (fun _ hs => hs.quietExpired) (fun _ hs => hs) (fun _ kind hs => hs.takeKind kind) (fun _ hs => hs.endRead)
    (fun _ p v hs => hs.setHold p v) h

/-- Settles O36: no command and no millisecond breaks either law, and a slot that moves up or is ON has its demand, which a
non-empty hold set makes false. -/
theorem everyStepKeepsTheRampLaws : Obligations.EveryStepKeepsTheRampLaws := by
  unfold Obligations.EveryStepKeepsTheRampLaws
  intro s t ⟨hramp, hdemand⟩ hstep
  have ramp : t.RampLaw := step_keeps_airLaw (fun _ _ a hs => hs.same a.slots) (fun _ _ _ => exec_keeps_rampLaw)
    (fun _ hs => hs.tick) hstep hramp
  have demand : t.DemandLaw :=
    step_keeps_airLaw (fun _ _ a hs => hs.same a.slots (State.airOpen_congr (by rw [a.out]) (by rw [a.out])))
      (fun _ _ _ => exec_keeps_demandLaw) (fun _ hs => hs.tick) hstep hdemand
  exact ⟨ramp, demand, demand.holdLaw⟩

/-! ## The governor (R103, R104, R111) -/

theorem State.GovernorLaw.tick {s : State} (h : s.GovernorLaw) : s.tick.GovernorLaw :=
  h.of_same (by simp) (by simp) (by simp) (fun k => by simp [State.slot_tick])

theorem State.governorLaw_deviceReset (s : State) : s.deviceReset.GovernorLaw :=
  ⟨rfl, fun k => ⟨by rw [grantOf_off] <;> simp [Slot.rest, Ramp.rest], by simp [Slot.rest, Ramp.rest, shareOf]⟩⟩

theorem State.GovernorLaw.sameAir {s t : State} (h : s.GovernorLaw) (a : s.SameAir t) : t.GovernorLaw :=
  h.same a.slots (by rw [a.wide]) (by rw [a.out]) a.bEff

theorem exec_keeps_governorLaw {c : Instr} {s t : State} (h : exec c s = .next t) : s.GovernorLaw → t.GovernorLaw :=
  exec_keeps_airLaw (fun _ _ a hs => hs.sameAir a) State.governorLaw_deviceReset
    (fun s hi lo _ => s.governorLaw_endOfReset hi lo)
    (fun _ f hs => hs.lostMarker f) (fun _ v hs => hs.monitor v) (fun _ k hs => hs.expireHoldOff k)
    (fun _ k hs => hs.rampStepEvent k) (fun s l _ => s.governorLaw_changeLevel l) (fun _ _ hs => hs.enterOnAir)
    (fun _ hs => hs.quietExpired) (fun _ hs => hs) (fun _ kind hs => hs.takeKind kind) (fun _ hs => hs.endRead)
    (fun _ p v hs => hs.setHold p v) h

/-- Settles O37: every command that moves an input of the computation forms the values anew, and no other command, nor the passing
of a millisecond, moves an input. -/
theorem everyStepKeepsTheGovernorsValues : Obligations.EveryStepKeepsTheGovernorsValues := by
  unfold Obligations.EveryStepKeepsTheGovernorsValues
  intro s t h hstep
  exact step_keeps_airLaw (fun _ _ a hs => hs.sameAir a) (fun _ _ _ => exec_keeps_governorLaw) (fun _ hs => hs.tick) hstep h

/-! ## The Output Controller (R115, R116, R129) -/

theorem State.OutputLaw.sameAir {s t : State} (h : s.OutputLaw) (a : s.SameAir t) : t.OutputLaw :=
  h.same a.slots (by rw [a.out]) (by rw [a.out])

theorem State.TripLaw.sameAir {s t : State} (h : s.TripLaw) (a : s.SameAir t) : t.TripLaw :=
  h.same (by rw [a.out]) (by rw [a.out])

theorem State.OutputLaw.tick {s : State} (h : s.OutputLaw) : s.tick.OutputLaw :=
  ⟨h.amplifier.of_out (by simp) (by simp), h.air.of_same (by simp) (fun k => by simp [State.slot_tick])⟩

theorem State.TripLaw.tick {s : State} (h : s.TripLaw) : s.tick.TripLaw := h.same (by simp) (by simp)

theorem State.outputLaw_deviceReset (s : State) : s.deviceReset.OutputLaw :=
  ⟨rfl, State.onAirLaw_of_off fun k => by simp [Slot.rest, Ramp.rest]⟩

/-- A departure makes the history shorter (R130). -/
theorem State.TripLaw.departure {s : State} (h : s.TripLaw) :
    State.TripLaw { s with out := { s.out with trips := s.out.trips.tail } } := by
  obtain ⟨hle, _⟩ := h
  constructor
  · simp only [List.length_tail]; omega
  · simp only [List.length_tail]; omega

theorem exec_keeps_outputLaw {c : Instr} {s t : State} (h : exec c s = .next t) : s.OutputLaw → t.OutputLaw :=
  exec_keeps_airLaw (fun _ _ a hs => hs.sameAir a) State.outputLaw_deviceReset (fun _ hi lo hs => hs.endOfReset hi lo)
    (fun _ f hs => hs.lostMarker f) (fun _ v hs => hs.monitor v) (fun _ k hs => hs.expireHoldOff k)
    (fun _ k hs => hs.rampStepEvent k) (fun _ l hs => hs.changeLevel l) (fun _ _ _ => State.OutputLaw.enterOnAir)
    (fun _ hs => hs.quietExpired) (fun _ hs => ⟨hs.amplifier, hs.air⟩) (fun _ kind hs => hs.takeKind kind)
    (fun _ hs => hs.endRead) (fun _ p v hs => hs.setHold p v) h

/-- Only a transmitter in LOCKOUT holds three trips, and WARMUP is another state. -/
theorem State.TripLaw.enterOnAir {s : State} (h : s.TripLaw) (hw : s.out.state = .warmUp) : s.enterOnAir.TripLaw :=
  h.of_same s.airFrame_enterOnAir.trips fun hl => by simp [hw] at hl

theorem exec_keeps_tripLaw {c : Instr} {s t : State} (h : exec c s = .next t) : s.TripLaw → t.TripLaw :=
  exec_keeps_airLaw (fun _ _ a hs => hs.sameAir a) (fun _ => State.TripLaw.of_empty rfl) (fun _ hi lo hs => hs.endOfReset hi lo)
    (fun _ f hs => hs.lostMarker f) (fun _ v hs => hs.monitor v) (fun _ k hs => hs.expireHoldOff k)
    (fun _ k hs => hs.rampStepEvent k) (fun _ l hs => hs.changeLevel l) (fun _ hw hs => hs.enterOnAir hw)
    (fun _ hs => hs.quietExpired) (fun _ hs => hs.departure) (fun _ kind hs => hs.takeKind kind)
    (fun _ hs => hs.endRead) (fun _ p v hs => hs.setHold p v) h

/-- Settles O39: PA_EN follows the state at each of its changes, slots are forced or found OFF where the air is left, and a third
trip locks the transmitter out. -/
theorem everyStepKeepsTheOutputLaws : Obligations.EveryStepKeepsTheOutputLaws := by
  unfold Obligations.EveryStepKeepsTheOutputLaws
  intro s t ⟨hamplifier, hair, htrip⟩ hstep
  obtain ⟨amplifier, air⟩ : t.OutputLaw := step_keeps_airLaw (fun _ _ a hs => hs.sameAir a) (fun _ _ _ => exec_keeps_outputLaw)
    (fun _ hs => hs.tick) hstep ⟨hamplifier, hair⟩
  exact ⟨amplifier, air, step_keeps_airLaw (fun _ _ a hs => hs.sameAir a) (fun _ _ _ => exec_keeps_tripLaw)
    (fun _ hs => hs.tick) hstep htrip⟩

/-! ## The selection (R62, R71, R78, R84) -/

theorem State.heardLaw_deviceReset (s : State) : s.deviceReset.HeardLaw := fun k => by
  rw [State.slot_deviceReset]
  exact Slot.heardLawful_start Slot.rest SlotRecord.rest

theorem exec_keeps_heardLaw {c : Instr} {s t : State} (h : exec c s = .next t) : s.HeardLaw → t.HeardLaw :=
  exec_keeps_airLaw (fun _ _ a hs => hs.same a.slots) State.heardLaw_deviceReset (fun _ hi lo hs => hs.endOfReset hi lo)
    (fun _ f hs => hs.lostMarker f) (fun _ v hs => hs.monitor v) (fun _ k hs => hs.expireHoldOff k)
    (fun _ k hs => hs.rampStepEvent k) (fun _ l hs => hs.changeLevel l)
    (fun s _ hs => s.airFrame_enterOnAir.heardLaw hs) (fun s hs => s.airFrame_quietExpired.heardLaw hs)
    (fun _ hs => hs.same rfl) (fun _ kind hs => hs.takeKind kind) (fun _ hs => hs.endRead)
    (fun _ p v hs => hs.setHold p v) h

/-- Settles O34: a selection is formed anew at each notice from the qualities that the notice finds, a slot that starts afresh is
LOST with both paths BAD, and nothing else moves a quality, a selection or a level. -/
theorem everyStepKeepsTheSelectionLaws : Obligations.EveryStepKeepsTheSelectionLaws := by
  unfold Obligations.EveryStepKeepsTheSelectionLaws
  intro s t h hstep
  exact t.heardLaw_iff.mp (step_keeps_airLaw (fun _ _ a hs => hs.same a.slots) (fun _ _ _ => exec_keeps_heardLaw)
    (fun _ hs => hs.tick) hstep (s.heardLaw_iff.mpr h))

end Sys2Proof.Machine
end

section
/-! PROOF. What leaves the plan alone: the frame of the commands that move neither the plan nor the Plan Engine nor the store nor the
ports' lists, and the cases that a property of every command comes down to by it. -/

namespace Sys2Proof.Machine

/-! ## The frame -/

/-- The plan, its generation, the tuning words, the retuning marks, the Plan Engine, the store and the ports' lists are as they
were. -/
structure State.PlanFrame (s t : State) : Prop where
  wide : t.wide = s.wide
  generation : t.generation = s.generation
  engine : t.engine = s.engine
  store : t.store = s.store
  changes : t.changes = s.changes
  resetHeld : t.resetHeld = s.resetHeld
  record : ∀ k, (t.slot k).record = (s.slot k).record
  words : ∀ k, (t.slot k).words = (s.slot k).words
  retuning : ∀ k, (t.slot k).retuning = (s.slot k).retuning
  queues : ∀ p, (s.port p).SameQueues (t.port p)

namespace State.PlanFrame

theorem refl (s : State) : s.PlanFrame s :=
  ⟨rfl, rfl, rfl, rfl, rfl, rfl, fun _ => rfl, fun _ => rfl, fun _ => rfl, fun _ => .refl _⟩

theorem trans {s t u : State} (h : s.PlanFrame t) (g : t.PlanFrame u) : s.PlanFrame u where
  wide := g.wide.trans h.wide
  generation := g.generation.trans h.generation
  engine := g.engine.trans h.engine
  store := g.store.trans h.store
  changes := g.changes.trans h.changes
  resetHeld := g.resetHeld.trans h.resetHeld
  record k := (g.record k).trans (h.record k)
  words k := (g.words k).trans (h.words k)
  retuning k := (g.retuning k).trans (h.retuning k)
  queues p := (h.queues p).trans (g.queues p)

theorem samePlan {s t : State} (h : s.PlanFrame t) : SamePlan s t := ⟨h.wide, h.record⟩

end State.PlanFrame

theorem State.FeedFrame.planFrame {s t : State} (h : s.FeedFrame t) : s.PlanFrame t :=
  ⟨h.wide, h.generation, h.engine, h.store, h.changes, h.resetHeld, h.record, h.words, h.retuning,
    fun p => ⟨h.cmdQueue p, h.rspQueue p, h.outcomes p⟩⟩

theorem State.AirFrame.planFrame {s t : State} (h : s.AirFrame t) : s.PlanFrame t := h.feedFrame.planFrame

theorem State.planFrame_latch (s : State) (p : Port) (c : Cause) : s.PlanFrame (s.latch p c) :=
  ⟨rfl, rfl, rfl, rfl, rfl, rfl, fun _ => rfl, fun _ => rfl, fun _ => rfl,
    fun i => s.sameQueues_modPort p i _ ⟨rfl, rfl, rfl⟩⟩

theorem State.planFrame_latchBoth (s : State) (c : Cause) : s.PlanFrame (s.latchBoth c) :=
  (s.planFrame_latch .a c).trans (State.planFrame_latch _ .b c)

theorem State.planFrame_out (s : State) (o : Output) : s.PlanFrame { s with out := o } :=
  ⟨rfl, rfl, rfl, rfl, rfl, rfl, fun _ => rfl, fun _ => rfl, fun _ => rfl, fun _ => .refl _⟩

theorem State.planFrame_setLines (s : State) (hi lo : Bool) : s.PlanFrame (s.setLines hi lo) :=
  ⟨rfl, rfl, rfl, rfl, rfl, rfl, fun _ => rfl, fun _ => rfl, fun _ => rfl, fun _ => .refl _⟩

theorem State.planFrame_formBudget (s : State) : s.PlanFrame s.formBudget :=
  ⟨rfl, rfl, rfl, rfl, rfl, rfl, fun _ => rfl, fun _ => rfl, fun _ => rfl, fun _ => .refl _⟩

theorem State.planFrame_moveReceiver (s : State) (f : Feed) (r : Receiver) : s.PlanFrame (s.moveReceiver f r) := by
  have put : s.PlanFrame (s.putReceiver f r) :=
    ⟨by simp, by simp, by simp, by simp, by simp, by simp, fun k => by simp, fun k => by simp, fun k => by simp,
      fun p => by rw [State.port_putReceiver]; exact .refl _⟩
  unfold State.moveReceiver
  simp only
  split
  · exact put
  · exact put.trans (State.planFrame_latchBoth _ _)

theorem State.planFrame_lostMarker (s : State) (f : Feed) : s.PlanFrame (s.lostMarker f) := by
  unfold State.lostMarker
  simp only
  split
  · exact s.planFrame_moveReceiver f _
  · exact (s.planFrame_moveReceiver f _).trans (State.feedFrame_unlockSweep _ f).planFrame

theorem State.planFrame_monitor (s : State) (v : Levels) : s.PlanFrame (s.monitor v) := by
  have started : s.PlanFrame { s with monitorIn := 10 } :=
    ⟨rfl, rfl, rfl, rfl, rfl, rfl, fun _ => rfl, fun _ => rfl, fun _ => rfl, fun _ => .refl _⟩
  exact started.trans (State.feedFrame_measureSweep _ v).planFrame

theorem State.planFrame_putSlot (s : State) (k : SlotIx) {x : Slot} (hr : x.record = (s.slot k).record)
    (hw : x.words = (s.slot k).words) (hm : x.retuning = (s.slot k).retuning) : s.PlanFrame (s.putSlot k x) :=
  (s.feedFrame_putSlot k x hr hw hm).planFrame

theorem State.planFrame_expireHoldOff (s : State) (k : SlotIx) : s.PlanFrame (s.expireHoldOff k) := by
  unfold State.expireHoldOff
  simp only
  split
  · exact (s.feedFrame_applySelection k _).planFrame
  · exact s.planFrame_putSlot k rfl rfl rfl

theorem State.planFrame_setHold (s : State) (p : Port) (v : Bool) : s.PlanFrame (s.setHold p v) := by
  have put := s.planFrame_out { s.out with hold := s.out.hold.put p v }
  unfold State.setHold
  simp only
  split
  · exact put
  · exact put.trans ((State.airFrame_reformAll _).trans (State.airFrame_formQuiet _)).planFrame

theorem State.planFrame_modPort (s : State) (p : Port) {f : PortState → PortState} (h : (s.port p).SameQueues (f (s.port p))) :
    s.PlanFrame (s.modPort p f) :=
  ⟨rfl, rfl, rfl, rfl, rfl, rfl, fun _ => rfl, fun _ => rfl, fun _ => rfl, fun i => s.sameQueues_modPort p i f h⟩

theorem State.planFrame_releaseUrgent (s : State) (p : Port) : s.PlanFrame (s.releaseUrgent p) :=
  s.planFrame_modPort p ⟨rfl, rfl, rfl⟩

theorem State.planFrame_silence (s : State) (p : Port) : s.PlanFrame (s.silence p) := by
  unfold State.silence
  exact ((s.planFrame_modPort p ⟨rfl, rfl, rfl⟩).trans (State.planFrame_latch _ _ _)).trans (State.planFrame_setHold _ p false)

theorem State.planFrame_tick (s : State) : s.PlanFrame { s.tick with store := s.store } :=
  ⟨by simp, by simp, by simp, rfl, by simp, by simp, fun k => by simp [State.slot_tick], fun k => by simp [State.slot_tick],
    fun k => by simp [State.slot_tick], fun p => by
      have : State.port { s.tick with store := s.store } p = s.tick.port p := rfl
      rw [this, State.port_tick]
      exact ⟨rfl, rfl, rfl⟩⟩

/-! ## Reports of OFF, and trips -/

/-- A step event leaves the plan alone, but for the report of OFF that it may end with (R98). -/
theorem State.rampStepEvent_cases (s : State) (k : SlotIx) :
    ∃ u, s.PlanFrame u ∧ (s.rampStepEvent k = u ∨ s.rampStepEvent k = u.afterOff) := by
  have moved : s.PlanFrame (s.modSlot k fun x => { x with ramp := x.ramp.advance s.wide.rampStep }.formShare) :=
    s.planFrame_putSlot k rfl rfl rfl
  unfold State.rampStepEvent
  simp only
  split
  · exact ⟨_, moved.trans (State.airFrame_govern _).planFrame, .inr rfl⟩
  · exact ⟨_, moved, .inl rfl⟩

/-- A change of level leaves the plan alone, but for the report of OFF with which a trip ends (R117, R129). -/
theorem State.changeLevel_cases (s : State) (l : Protection) :
    ∃ u, s.PlanFrame u ∧ (s.changeLevel l = u ∨ s.changeLevel l = u.afterOff) := by
  have formed : s.PlanFrame ((({ s with out := { s.out with level := l } }).latchBoth .protection).formBudget).govern :=
    (((s.planFrame_out _).trans (State.planFrame_latchBoth _ _)).trans (State.planFrame_formBudget _)).trans
      (State.airFrame_govern _).planFrame
  unfold State.changeLevel
  simp only
  split
  · split
    · unfold State.trip
      exact ⟨_, ((formed.trans (State.planFrame_out _ _)).trans (State.airFrame_setTx _ _).planFrame).trans
        (State.airFrame_forceOff _).planFrame, .inr rfl⟩
    · exact ⟨_, formed, .inl rfl⟩
  · split
    · unfold State.leaveTripped
      split
      · exact ⟨_, formed.trans (State.airFrame_enterWarmUp _).planFrame, .inl rfl⟩
      · exact ⟨_, formed.trans (State.airFrame_setTx _ _).planFrame, .inl rfl⟩
    · exact ⟨_, formed, .inl rfl⟩

/-! ## What a command comes down to -/

/-- What a command other than a device reset comes down to for a property of the plan, the Plan Engine, the store and the ports'
lists. -/
theorem exec_port_cases {P : State → State → Prop} (still : ∀ s t, s.PlanFrame t → P s t)
    (afterOff : ∀ s u, s.PlanFrame u → P s u.afterOff) (deliver : ∀ s p f, P s (s.deliver p f))
    (submissions : ∀ s sub, P s (s.submissions sub)) (startPeriod : ∀ s p, P s (s.startPeriod p))
    (endPeriod : ∀ s p w, P s (s.endPeriodOf p w)) (purge : ∀ s p, P s (s.takePurge p)) (clear : ∀ s p, P s (s.takeClear p))
    (endOfReset : ∀ s hi lo, s.resetHeld = true → P s (s.endOfReset hi lo)) (taking : ∀ s kind, P s (s.takeKind kind))
    (endErasing : ∀ s, P s s.endErasing) (endProgramming : ∀ s v, P s (s.endProgramming v)) (endErase : ∀ s, P s s.endErase)
    (endBootWrite : ∀ s, P s s.endBootWrite) (endRead : ∀ s, P s s.endRead) {c : Instr} {s t : State}
    (hc : c ≠ .deviceReset) (h : exec c s = .next t) : P s t := by
  have same : P s s := still s s (.refl s)
  have moved : ∀ {u v : State}, s.PlanFrame u → (v = u ∨ v = u.afterOff) → P s v := by
    rintro u v hu (rfl | rfl)
    · exact still s _ hu
    · exact afterOff s _ hu
  have held : ∀ p v, P s ((s.releaseUrgent p).setHold p v) := fun p v =>
    still s _ ((s.planFrame_releaseUrgent p).trans (State.planFrame_setHold _ p v))
  cases c <;> replace h := Host.Outcome.next.inj h <;> subst h
  case deviceReset => exact absurd rfl hc
  case endOfReset hi lo =>
    split
    · exact endOfReset s hi lo ‹_›
    · exact same
  case goodMarker f => exact still s _ (s.planFrame_moveReceiver f _)
  case badMarker f | missingMarker f => exact still s _ (s.planFrame_lostMarker f)
  case monitorInterval v => exact still s _ (s.planFrame_monitor v)
  case holdOffExpiry k =>
    split
    · exact still s _ (s.planFrame_expireHoldOff k)
    · exact same
  case stepEvent k =>
    split
    · obtain ⟨u, hu, e⟩ := s.rampStepEvent_cases k
      exact moved hu e
    · exact same
  case protectionLevelChange hi lo =>
    split
    · exact still s _ (s.planFrame_setLines hi lo)
    · obtain ⟨u, hu, e⟩ := (s.setLines hi lo).changeLevel_cases (protectionOf hi lo)
      exact moved ((s.planFrame_setLines hi lo).trans hu) e
  case warmUpExpiry =>
    split
    · exact still s _ s.airFrame_enterOnAir.planFrame
    · exact same
  case quietExpiry =>
    split
    · exact still s _ s.airFrame_quietExpired.planFrame
    · exact same
  case tripHistoryDeparture => exact still s _ (s.planFrame_out _)
  case selectPeriodStart p =>
    split
    · exact same
    · exact startPeriod s p
  case selectPeriodEnd p w => exact endPeriod s p w
  case submitChange sub => exact submissions s sub
  case endOfErasing => exact endErasing s
  case endOfProgramming v => exact endProgramming s v
  case eraseCompletion => exact endErase s
  case bootSelectorWriteCompletion => exact endBootWrite s
  case readCompletion => exact endRead s
  case holdOutput p =>
    unfold State.takeHold
    split
    · exact held p true
    · exact same
  case releaseOutput p =>
    unfold State.takeRelease
    split
    · exact held p false
    · exact same
  case purgeChanges p => exact purge s p
  case portClear p => exact clear s p
  case silenceExpiry p =>
    split
    · exact still s _ (s.planFrame_silence p)
    · exact same
  case assignSlot | releaseSlot | setPower | setThresholds | setSlotEnable | setPlanParams | setTransmit | loadPreset |
      clearLockout =>
    exact taking s _
  all_goals exact deliver s _ _

/-- The same for a property that no queue of a port enters. -/
theorem exec_plan_cases {P : State → State → Prop} (still : ∀ s t, s.PlanFrame t → P s t)
    (afterOff : ∀ s u, s.PlanFrame u → P s u.afterOff) (desk : ∀ s t, s.DeskMove t → P s t)
    (endOfReset : ∀ s hi lo, s.resetHeld = true → P s (s.endOfReset hi lo)) (taking : ∀ s kind, P s (s.takeKind kind))
    (endErasing : ∀ s, P s s.endErasing) (endProgramming : ∀ s v, P s (s.endProgramming v)) (endErase : ∀ s, P s s.endErase)
    (endBootWrite : ∀ s, P s s.endBootWrite) (endRead : ∀ s, P s s.endRead) {c : Instr} {s t : State}
    (hc : c ≠ .deviceReset) (h : exec c s = .next t) : P s t :=
  exec_port_cases still afterOff (fun s p f => desk s _ (s.deskMove_deliver p f))
    (fun s sub => desk s _ (s.deskMove_submissions sub)) (fun s p => desk s _ (s.deskMove_startPeriod p))
    (fun s p w => desk s _ (s.deskMove_endPeriodOf p w)) (fun s p => desk s _ (s.deskMove_takePurge p))
    (fun s p => desk s _ (s.deskMove_takeClear p)) endOfReset taking endErasing endProgramming endErase endBootWrite endRead hc h

/-! ## Ends of drains (R44, R47) -/

/-- The change of a drained ASSIGN_SLOT or RELEASE_SLOT, or of one on a slot that is OFF, takes effect: the engine is IDLE, the
record is written, the application is recorded. -/
def State.recordApplied (s : State) (e : Entry) (k : SlotIx) (r : SlotRecord) : State :=
  (({ s with engine := .idle }).applyRecord k r).commit e

theorem State.endDrain_assign {s : State} {e : Entry} {k : SlotIx} {r : SlotRecord} (he : s.engine = .draining e)
    (hc : e.change = .assignSlot k r) :
    s.endDrain = if (s.slot k).transmitting then s else s.recordApplied e k { r with assigned := true } := by
  simp only [State.endDrain, he, hc, State.recordApplied]

theorem State.endDrain_release {s : State} {e : Entry} {k : SlotIx} (he : s.engine = .draining e)
    (hc : e.change = .releaseSlot k) :
    s.endDrain = if (s.slot k).transmitting then s else s.recordApplied e k .rest := by
  simp only [State.endDrain, he, hc, State.recordApplied]

theorem State.endDrain_load {s : State} {e : Entry} {n : PresetIx} (he : s.engine = .draining e)
    (hc : e.change = .loadPreset n) :
    s.endDrain = if s.markedOff then { s with engine := .loading e, store := s.store.askRead n } else s := by
  simp only [State.endDrain, he, hc]

theorem State.endDrain_of_not_draining {s : State} (h : ∀ e, s.engine ≠ .draining e) : s.endDrain = s := by
  unfold State.endDrain
  split
  · rename_i e he
    exact absurd he (h e)
  · rfl

/-- What the report of OFF can do to a drain. -/
theorem State.endDrain_cases (s : State) :
    s.endDrain = s ∨
      (∃ e k r, s.engine = .draining e ∧ (s.slot k).transmitting = false ∧
        ((∃ q, e.change = .assignSlot k q ∧ r = { q with assigned := true }) ∨ (e.change = .releaseSlot k ∧ r = .rest)) ∧
          s.endDrain = s.recordApplied e k r) ∨
      ∃ e n, s.engine = .draining e ∧ e.change = .loadPreset n ∧ s.markedOff = true ∧
        s.endDrain = { s with engine := .loading e, store := s.store.askRead n } := by
  cases hs : s.engine with
  | booting => exact .inl (State.endDrain_of_not_draining (by simp [hs]))
  | idle => exact .inl (State.endDrain_of_not_draining (by simp [hs]))
  | loading e => exact .inl (State.endDrain_of_not_draining (by simp [hs]))
  | draining e =>
    cases hc : e.change with
    | assignSlot k r =>
      cases hk : (s.slot k).transmitting with
      | true => exact .inl (by rw [State.endDrain_assign hs hc, if_pos hk])
      | false => exact .inr (.inl ⟨e, k, _, rfl, hk, .inl ⟨r, hc, rfl⟩, by rw [State.endDrain_assign hs hc, if_neg (by simp [hk])]⟩)
    | releaseSlot k =>
      cases hk : (s.slot k).transmitting with
      | true => exact .inl (by rw [State.endDrain_release hs hc, if_pos hk])
      | false => exact .inr (.inl ⟨e, k, _, rfl, hk, .inr ⟨hc, rfl⟩, by rw [State.endDrain_release hs hc, if_neg (by simp [hk])]⟩)
    | loadPreset n =>
      cases hm : s.markedOff with
      | true => exact .inr (.inr ⟨e, n, rfl, hc, rfl, by rw [State.endDrain_load hs hc, if_pos hm]⟩)
      | false => exact .inl (by rw [State.endDrain_load hs hc, if_neg (by simp [hm])])
    | _ => exact .inl (by simp only [State.endDrain, hs, hc])

end Sys2Proof.Machine
end

section
/-! PROOF. The Law of the Control Ports (R151, R152): what an execution and a delivery leave of a port's queues, and that no other
event makes a list longer than its bound. -/

namespace Sys2Proof.Machine

/-! ## The lists of a port -/

/-- The law of one port: its lists within their bounds, and nothing waiting while there is room to answer. -/
def PortState.Lawful (q : PortState) : Prop := q.Bounded ∧ (q.cmdQueue = [] ∨ 4 ≤ q.rspQueue.length)

theorem State.portLaws_iff (s : State) : (∀ p, (s.port p).Lawful) ↔ s.PortLaw ∧ s.WaitingLaw :=
  forall_and

/-- Both queues are as they were, and the outcome list is within its bound where it was. -/
structure PortState.ListsKept (q r : PortState) : Prop where
  cmdQueue : r.cmdQueue = q.cmdQueue
  rspQueue : r.rspQueue = q.rspQueue
  outcomes : q.outcomes.length ≤ 8 → r.outcomes.length ≤ 8

theorem PortState.ListsKept.lawful {q r : PortState} (h : q.ListsKept r) (hq : q.Lawful) : r.Lawful := by
  obtain ⟨⟨hcmd, hrsp, hout⟩, hwait⟩ := hq
  refine ⟨⟨?_, ?_, h.outcomes hout⟩, ?_⟩
  · rwa [h.cmdQueue]
  · rwa [h.rspQueue]
  · rwa [h.cmdQueue, h.rspQueue]

theorem PortState.SameQueues.listsKept {q r : PortState} (h : q.SameQueues r) : q.ListsKept r :=
  ⟨h.cmdQueue, h.rspQueue, fun hq => by rwa [h.outcomes]⟩

/-- A record that joins a list within its bound leaves it within (R53). -/
theorem pushOutcome_length_le {xs : List OutcomeRecord} (r : OutcomeRecord) (h : xs.length ≤ 8) : (pushOutcome xs r).length ≤ 8 := by
  simp only [pushOutcome, List.length_drop, List.length_append, List.length_singleton]
  omega

/-! ## Events that leave the queues alone -/

/-- Every port keeps its lists. -/
def State.ListsKept (s t : State) : Prop := ∀ p, (s.port p).ListsKept (t.port p)

theorem State.ListsKept.refl (s : State) : s.ListsKept s := fun _ => (PortState.SameQueues.refl _).listsKept

theorem State.ListsKept.trans {s t u : State} (h : s.ListsKept t) (g : t.ListsKept u) : s.ListsKept u := fun p =>
  ⟨(g p).cmdQueue.trans (h p).cmdQueue, (g p).rspQueue.trans (h p).rspQueue, fun hq => (g p).outcomes ((h p).outcomes hq)⟩

theorem State.PlanFrame.listsKept {s t : State} (h : s.PlanFrame t) : s.ListsKept t := fun p => (h.queues p).listsKept

theorem State.AirFrame.listsKept {s t : State} (h : s.AirFrame t) : s.ListsKept t := h.planFrame.listsKept

theorem State.listsKept_of_ports {s t : State} (h : t.ports = s.ports) : s.ListsKept t := fun p => by
  rw [State.port_congr h]
  exact (PortState.SameQueues.refl _).listsKept

theorem State.ListsKept.before {s t u : State} (g : t.ListsKept u) (h : t.ports = s.ports) : s.ListsKept u :=
  (State.listsKept_of_ports h).trans g

theorem State.listsKept_modPort (s : State) (p : Port) {f : PortState → PortState} (h : (s.port p).ListsKept (f (s.port p))) :
    s.ListsKept (s.modPort p f) := fun i => by
  rw [State.port_modPort]
  split
  · rename_i e
    rwa [e]
  · exact (PortState.SameQueues.refl _).listsKept

theorem State.listsKept_placeOutcome (s : State) (p : Port) (r : OutcomeRecord) : s.ListsKept (s.placeOutcome p r) :=
  (s.listsKept_modPort p ⟨rfl, rfl, pushOutcome_length_le r⟩).trans (State.planFrame_latch _ p .outcome).listsKept

theorem State.listsKept_commit (s : State) (e : Entry) : s.ListsKept (s.commit e) :=
  ((State.listsKept_placeOutcome { s with generation := s.generation + 1 } _ _).trans
    (State.planFrame_latch _ _ .plan).listsKept).before rfl

theorem State.listsKept_applyRecord (s : State) (k : SlotIx) (r : SlotRecord) : s.ListsKept (s.applyRecord k r) := fun p => by
  obtain ⟨l, c, _, e⟩ := (s.recordFrame_applyRecord k r).port p
  rw [e]
  exact ⟨rfl, rfl, id⟩

theorem State.listsKept_afterOff (s : State) : s.ListsKept s.afterOff := by
  refine State.ListsKept.trans ?_ (State.airFrame_closeIfOff s.endDrain).listsKept
  rcases s.endDrain_cases with e | ⟨_, _, _, _, _, _, e⟩ | ⟨_, _, _, _, _, e⟩ <;> rw [e]
  · exact .refl s
  · exact ((State.listsKept_applyRecord _ _ _).trans (State.listsKept_commit _ _)).before rfl
  · exact State.listsKept_of_ports rfl

theorem State.listsKept_txEnableWritten (s : State) (v : Bool) : s.ListsKept (s.txEnableWritten v) := by
  unfold State.txEnableWritten
  split
  · exact .refl s
  · split
    · exact s.airFrame_txEnabled.listsKept
    · exact s.airFrame_txDisabled.listsKept

theorem State.listsKept_carryOut (s : State) (e : Entry) : s.ListsKept (s.carryOut e) := by
  have atOnce : ∀ {u : State}, s.ListsKept u → s.ListsKept (u.commit e) := fun hu => hu.trans (State.listsKept_commit _ e)
  have slotChange : ∀ k r, s.ListsKept (s.takeSlotChange e k r) := fun k r => by
    unfold State.takeSlotChange
    split
    · exact (State.listsKept_afterOff _).before (by simp)
    · exact atOnce (s.listsKept_applyRecord k r)
  unfold State.carryOut
  split
  · exact slotChange _ _
  · exact slotChange _ _
  · exact atOnce (State.listsKept_of_ports (by simp))
  · exact atOnce (State.listsKept_of_ports rfl)
  · refine atOnce ?_
    unfold State.applyEnable
    simp only
    split
    · exact (State.airFrame_wake _).listsKept.before (by simp)
    · exact State.listsKept_of_ports (by simp)
  · refine atOnce ?_
    unfold State.applyParams
    exact (State.airFrame_measureQuiet _).listsKept.before (by simp)
  · exact atOnce ((State.listsKept_txEnableWritten _ _).before rfl)
  · unfold State.takeLoad
    exact (State.listsKept_afterOff _).before (by simp)
  · refine atOnce ?_
    unfold State.applyClearLockout
    simp only
    split
    · exact ((State.airFrame_setTx _ _).trans (State.airFrame_enterWarmUp _)).listsKept.before rfl
    · exact (State.airFrame_setTx _ _).listsKept.before rfl

theorem State.listsKept_takeKind (s : State) (kind : ChangeKind) : s.ListsKept (s.takeKind kind) := by
  have refused : ∀ (u : State) e c, u.ListsKept (u.refuseChange e c) := fun u e _ => u.listsKept_placeOutcome e.origin _
  unfold State.takeKind
  split
  · rename_i e _
    split
    · refine State.ListsKept.before (t := s.without e) ?_ rfl
      change (s.without e).ListsKept ((s.without e).takeEntry e)
      unfold State.takeEntry
      split
      · exact refused _ _ _
      · split
        · exact refused _ _ _
        · exact State.listsKept_carryOut _ _
    · exact .refl s
  · exact .refl s

theorem State.listsKept_endBoot (s : State) (r : BootResult) : s.ListsKept (s.endBoot r) := by
  unfold State.endBoot
  exact ((State.planFrame_latchBoth _ .boot).listsKept.trans (State.listsKept_txEnableWritten _ _)).before rfl

theorem State.listsKept_loadImage (s : State) (img : PlanImage) : s.ListsKept (s.loadImage img) := fun p => by
  obtain ⟨_, _, _, _, _, _, _, _, _, hport⟩ := s.loadImage_rest img
  obtain ⟨l, c, _, e⟩ := hport p
  rw [e]
  exact ⟨rfl, rfl, id⟩

theorem State.listsKept_completeLoad (s : State) (e : Entry) (img : PlanImage) : s.ListsKept (s.completeLoad e img) :=
  ((s.listsKept_loadImage img).trans (State.listsKept_commit _ e)).trans (State.listsKept_txEnableWritten _ _)

theorem State.listsKept_completeBoot (s : State) (img : PlanImage) : s.ListsKept (s.completeBoot img) :=
  (s.listsKept_loadImage img).trans
    ((State.listsKept_endBoot { (s.loadImage img) with generation := s.generation + 1 } _).before (s := s.loadImage img) rfl)

theorem State.listsKept_endRead (s : State) : s.ListsKept s.endRead := by
  unfold State.endRead
  split
  · simp only
    split
    · exact (State.listsKept_completeLoad _ _ _).before (s := s) rfl
    · exact (State.listsKept_completeBoot _ _).before (s := s) rfl
    · exact .refl s
  · exact .refl s

theorem State.listsKept_endOfReset (s : State) (hi lo : Bool) : s.ListsKept (s.endOfReset hi lo) := by
  have released : s.ListsKept (s.released hi lo) := fun p => by
    rw [State.port_released]
    exact (PortState.SameQueues.refl _).listsKept
  rw [State.endOfReset_eq]
  rcases (s.released hi lo).bootDecision_cases with ⟨_, e⟩ | ⟨_, _, _, e⟩ | ⟨_, _, _, e⟩ | ⟨_, _, _, _, e⟩ <;> rw [e]
  · exact released.trans (State.listsKept_endBoot _ _)
  · exact released.trans (State.listsKept_endBoot _ _)
  · exact released.trans (State.listsKept_endBoot _ _)
  · exact released.trans (State.listsKept_of_ports rfl)

theorem State.listsKept_completeOperation (s : State) (st : Store) (op : PortOp) (p : Port) (done : Bool) :
    s.ListsKept (s.completeOperation st op p done) :=
  (State.planFrame_latch _ p .store).listsKept.before rfl

theorem State.listsKept_purge (s : State) (p : Port) : s.ListsKept (s.purge p) := by
  have recorded : ∀ (l : List Entry) (t : State),
      t.ListsKept (l.foldl (fun t e => t.placeOutcome p (e.outcome .purged none)) t) := by
    intro l
    induction l with
    | nil => exact .refl
    | cons e l ih => exact fun t => (t.listsKept_placeOutcome p _).trans (ih _)
  exact (recorded _ _).before rfl

/-! ## Executions (R151) -/

/-- The law of one port but for the waiting: what an event of the port's own starts its executions from. -/
structure PortState.Filled (q : PortState) (waiting : List Frame) : Prop where
  waiting : waiting.length ≤ 4
  rspQueue : q.rspQueue.length ≤ 4
  outcomes : q.outcomes.length ≤ 8

/-- Executions go on while there is room, so that what waits after them waits at a full response queue. -/
theorem State.runCommands_lawful (p : Port) : ∀ (l : List Frame) (s : State), (s.port p).Filled l →
    ((State.runCommands p l s).port p).Lawful
  | [], s, ⟨_, hrsp, hout⟩ => by
    simp only [State.runCommands, State.port_modPort_self]
    exact ⟨⟨Nat.zero_le _, hrsp, hout⟩, .inl rfl⟩
  | f :: fs, s, ⟨hl, hrsp, hout⟩ => by
    have kept := s.sameQueues_perform p p f
    simp only [State.runCommands]
    split
    · rename_i hroom
      refine State.runCommands_lawful p fs _ ⟨Nat.le_of_succ_le hl, ?_, ?_⟩
      · simp only [State.executeFrame, State.port_modPort_self, List.length_append, List.length_singleton, kept.rspQueue]
        omega
      · simpa only [State.executeFrame, State.port_modPort_self, kept.outcomes] using hout
    · rename_i hfull
      simp only [State.port_modPort_self]
      exact ⟨⟨hl, hrsp, hout⟩, .inr (not_lt.mp hfull)⟩

theorem State.runCommands_other (p : Port) : ∀ (l : List Frame) (s : State) {i : Port}, i ≠ p →
    (s.port i).SameQueues ((State.runCommands p l s).port i)
  | [], s, i, hi => by
    simp only [State.runCommands, State.port_modPort_of_ne _ hi]
    exact .refl _
  | f :: fs, s, i, hi => by
    simp only [State.runCommands]
    split
    · refine PortState.SameQueues.trans ?_ (State.runCommands_other p fs _ hi)
      simp only [State.executeFrame, State.port_modPort_of_ne _ hi]
      exact s.sameQueues_perform p i f
    · simp only [State.port_modPort_of_ne _ hi]
      exact .refl _

/-- Every port is lawful, once one port may be short of the executions that it has room for. -/
def State.LawfulBut (s : State) (p : Port) : Prop := (s.port p).Bounded ∧ ∀ i, i ≠ p → (s.port i).Lawful

theorem State.runPort_lawful {s : State} {p : Port} (h : s.LawfulBut p) (i : Port) : ((s.runPort p).port i).Lawful := by
  obtain ⟨⟨hcmd, hrsp, hout⟩, other⟩ := h
  by_cases hi : i = p
  · subst hi
    exact State.runCommands_lawful i _ s ⟨hcmd, hrsp, hout⟩
  · exact (State.runCommands_other p _ s hi).listsKept.lawful (other i hi)

theorem State.lawfulBut_modPort {s : State} (h : ∀ i, (s.port i).Lawful) (p : Port) {f : PortState → PortState}
    (hf : (f (s.port p)).Bounded) : (s.modPort p f).LawfulBut p :=
  ⟨by rwa [State.port_modPort_self], fun i hi => by rw [State.port_modPort_of_ne _ hi]; exact h i⟩

theorem PortState.Bounded.classify {q : PortState} (h : q.Bounded) (f : Frame) : (q.classify f).Bounded := by
  obtain ⟨hcmd, hrsp, hout⟩ := h
  unfold PortState.classify
  split
  · exact ⟨hcmd, hrsp, hout⟩
  · split
    · unfold PortState.placeUrgent
      split <;> exact ⟨hcmd, hrsp, hout⟩
    · unfold PortState.enqueue
      split
      · refine ⟨?_, hrsp, hout⟩
        simp only [List.length_append, List.length_singleton]
        omega
      · exact ⟨hcmd, hrsp, hout⟩

theorem State.deliver_lawful {s : State} (h : ∀ i, (s.port i).Lawful) (p : Port) (f : Frame) (i : Port) :
    ((s.deliver p f).port i).Lawful :=
  State.runPort_lawful (State.lawfulBut_modPort h p ((h p).1.classify f)) i

theorem State.submissions_lawful {s : State} (h : ∀ i, (s.port i).Lawful) (sub : Submission) (i : Port) :
    ((s.submissions sub).port i).Lawful := by
  unfold State.submissions
  split
  · exact State.deliver_lawful h _ _ i
  · split <;> exact State.deliver_lawful (State.deliver_lawful h _ _) _ _ i

theorem State.modPort_lawful {s : State} (h : ∀ i, (s.port i).Lawful) (p : Port) (f : PortState → PortState)
    (hf : ∀ q : PortState, q.SameQueues (f q)) (i : Port) : ((s.modPort p f).port i).Lawful :=
  (s.listsKept_modPort p (hf _).listsKept i).lawful (h i)

theorem PortState.Bounded.removeShifted {q : PortState} (h : q.Bounded) (o : Outgoing) (n : Nat) :
    (q.removeShifted o n).Bounded := by
  obtain ⟨hcmd, hrsp, hout⟩ := h
  unfold PortState.removeShifted
  split
  · exact ⟨hcmd, by simp only [List.length_tail]; omega, hout⟩
  · exact ⟨hcmd, hrsp, hout⟩

theorem State.endPeriod_lawful {s : State} (h : ∀ i, (s.port i).Lawful) (p : Port) (o : Outgoing) (w : List Byte) (i : Port) :
    ((s.endPeriod p o w).port i).Lawful := by
  have ran := State.runPort_lawful
    (State.lawfulBut_modPort h p (f := fun q => q.removeShifted o w.length) ((h p).1.removeShifted o w.length))
  unfold State.endPeriod
  simp only
  split
  · refine State.modPort_lawful ran p _ (fun _ => ?_) i
    exact ⟨rfl, rfl, rfl⟩
  · refine State.modPort_lawful (State.deliver_lawful ran p _) p _ (fun _ => ?_) i
    exact ⟨rfl, rfl, rfl⟩

theorem State.clearPort_lawful {s : State} (h : ∀ i, (s.port i).Lawful) (p : Port) (sel : ClearSelector) (i : Port) :
    ((s.clearPort p sel).port i).Lawful := by
  obtain ⟨hcmd, hrsp, hout⟩ := (h p).1
  refine State.runPort_lawful (State.lawfulBut_modPort h p ⟨?_, ?_, hout⟩) i
  · simp only [PortState.clear]
    split <;> simp [hcmd]
  · simp only [PortState.clear]
    split <;> simp [hrsp]

theorem State.takeClear_lawful {s : State} (h : ∀ i, (s.port i).Lawful) (p i : Port) : ((s.takeClear p).port i).Lawful := by
  unfold State.takeClear
  split
  · exact State.clearPort_lawful (fun j => ((s.planFrame_releaseUrgent p).listsKept j).lawful (h j)) p _ i
  · exact h i

theorem State.listsKept_startPeriod (s : State) (p : Port) : s.ListsKept (s.startPeriod p) := by
  have fixed := (s.planFrame_modPort p (f := fun q => { q with period := some (s.fixOutgoing p), silenceTimer := none, silent := false })
    ⟨rfl, rfl, rfl⟩).listsKept
  unfold State.startPeriod
  simp only
  split
  · exact fixed.trans (State.planFrame_latch _ _ _).listsKept
  · exact fixed

/-! ## Every command and every step -/

theorem PortState.lawful_rest : PortState.rest.Lawful := ⟨⟨Nat.zero_le _, Nat.zero_le _, Nat.zero_le _⟩, .inl rfl⟩

theorem State.endPeriodOf_lawful {s : State} (h : ∀ i, (s.port i).Lawful) (p : Port) (w : List Byte) (i : Port) :
    ((s.endPeriodOf p w).port i).Lawful := by
  unfold State.endPeriodOf
  split
  · exact State.endPeriod_lawful h p _ w i
  · exact h i

theorem State.listsKept_takePurge (s : State) (p : Port) : s.ListsKept (s.takePurge p) := by
  unfold State.takePurge
  split
  · exact (s.planFrame_releaseUrgent p).listsKept.trans (State.listsKept_purge _ p)
  · exact .refl s

theorem State.listsKept_endErasing (s : State) : s.ListsKept s.endErasing := by
  unfold State.endErasing
  split <;> exact State.listsKept_of_ports rfl

theorem State.listsKept_endProgramming (s : State) (v : Bool) : s.ListsKept (s.endProgramming v) := by
  unfold State.endProgramming
  split
  · exact s.listsKept_completeOperation _ _ _ _
  · exact .refl s

theorem State.listsKept_endErase (s : State) : s.ListsKept s.endErase := by
  unfold State.endErase
  split
  · exact s.listsKept_completeOperation _ _ _ _
  · exact .refl s

theorem State.listsKept_endBootWrite (s : State) : s.ListsKept s.endBootWrite := by
  unfold State.endBootWrite
  split
  · exact s.listsKept_completeOperation _ _ _ _
  · exact .refl s

theorem exec_keeps_portLaws {c : Instr} {s t : State} (hx : exec c s = .next t) :
    (∀ p, (s.port p).Lawful) → ∀ p, (t.port p).Lawful := by
  have kept : ∀ {s t : State}, s.ListsKept t → (∀ p, (s.port p).Lawful) → ∀ p, (t.port p).Lawful := fun hk h p =>
    (hk p).lawful (h p)
  by_cases hc : c = .deviceReset
  · subst hc
    obtain rfl := Host.Outcome.next.inj hx
    exact fun _ p => by rw [State.port_deviceReset]; exact PortState.lawful_rest
  · exact exec_port_cases (P := fun s t => (∀ p, (s.port p).Lawful) → ∀ p, (t.port p).Lawful)
      (still := fun _ _ hf => kept hf.listsKept)
      (afterOff := fun _ u hf => kept (hf.listsKept.trans u.listsKept_afterOff))
      (deliver := fun _ p f h => State.deliver_lawful h p f)
      (submissions := fun _ sub h => State.submissions_lawful h sub)
      (startPeriod := fun s p => kept (s.listsKept_startPeriod p))
      (endPeriod := fun _ p w h => State.endPeriodOf_lawful h p w)
      (purge := fun s p => kept (s.listsKept_takePurge p))
      (clear := fun _ p h => State.takeClear_lawful h p)
      (endOfReset := fun s hi lo _ => kept (s.listsKept_endOfReset hi lo))
      (taking := fun s kind => kept (s.listsKept_takeKind kind))
      (endErasing := fun s => kept s.listsKept_endErasing)
      (endProgramming := fun s v => kept (s.listsKept_endProgramming v))
      (endErase := fun s => kept s.listsKept_endErase)
      (endBootWrite := fun s => kept s.listsKept_endBootWrite)
      (endRead := fun s => kept s.listsKept_endRead) hc hx

/-- Settles O60: every event that touches a queue ends with the executions for which there is room, so that what waits then waits
at a full response queue. -/
theorem everyStepKeepsThePortLaws : Obligations.EveryStepKeepsThePortLaws := by
  unfold Obligations.EveryStepKeepsThePortLaws
  intro s t h hstep
  refine t.portLaws_iff.mp (step_keeps (P := fun s => ∀ p, (s.port p).Lawful) (fun _ _ _ => exec_keeps_portLaws)
    (fun _ _ _ hs => hs) (fun u hs p => ?_) hstep (s.portLaws_iff.mpr h))
  rw [State.port_tick]
  exact hs p

end Sys2Proof.Machine
end

section
/-! PROOF. Takings and applications: what a taking comes down to, what each application leaves alone, and that the plan moves with
its generation alone (R1, R17, R41). -/

namespace Sys2Proof.Machine

/-! ## What a taking comes down to (R36 to R39) -/

/-- The entry with its clamped arguments (R38). -/
def Entry.clamped (e : Entry) : Entry := { e with change := clampChange e.change }

theorem State.takeEntry_stale {s : State} {e : Entry} (h : s.isStale e = true) : s.takeEntry e = s.refuseChange e .stale := by
  rw [State.takeEntry, if_pos h]

theorem State.takeEntry_refused {s : State} {e : Entry} {code : OutcomeCode} (h : s.isStale e = false)
    (ht : s.testChange (clampChange e.change) = some code) : s.takeEntry e = s.refuseChange e code := by
  rw [State.takeEntry, if_neg (by simp [h]), ht]

theorem State.takeEntry_passed {s : State} {e : Entry} (h : s.isStale e = false) (ht : s.testChange (clampChange e.change) = none) :
    s.takeEntry e = s.carryOut e.clamped := by
  rw [State.takeEntry, if_neg (by simp [h]), ht]
  rfl

/-- The taking of an entry that the queue hands over to an engine in IDLE (R36). -/
theorem State.takeKind_due {s : State} {e : Entry} (hi : s.engine = .idle) (hn : s.changes.next = some e) :
    s.takeKind e.change.kind = (s.without e).takeEntry e := by
  simp only [State.takeKind, State.dueTaking, if_pos hi, hn, if_pos]
  rfl

theorem State.Passes.takeKind {s : State} {e : Entry} (h : s.Passes e) :
    s.takeKind e.change.kind = (s.without e).carryOut e.clamped := by
  obtain ⟨hi, hn, hstale, htest⟩ := h
  rw [State.takeKind_due hi hn]
  exact State.takeEntry_passed (s := s.without e) hstale htest

/-- A taking does nothing, refuses the entry that the queue hands over, or carries out its clamped change (R36, R39, R41). -/
theorem State.takeKind_cases (s : State) (kind : ChangeKind) :
    s.takeKind kind = s ∨
      ∃ e, s.engine = .idle ∧ s.changes.next = some e ∧
        ((∃ code, s.takeKind kind = (s.without e).refuseChange e code) ∨
          (s.Passes e ∧ s.takeKind kind = (s.without e).carryOut e.clamped)) := by
  cases hdue : s.dueTaking with
  | none => exact .inl (by rw [State.takeKind, hdue])
  | some e =>
    obtain ⟨hi, hn⟩ := Option.ite_none_right_eq_some.mp hdue
    by_cases hk : e.change.kind = kind
    · subst hk
      refine .inr ⟨e, hi, hn, ?_⟩
      rw [State.takeKind_due hi hn]
      cases hstale : s.isStale e with
      | true => exact .inl ⟨_, State.takeEntry_stale (s := s.without e) hstale⟩
      | false =>
        cases htest : s.testChange (clampChange e.change) with
        | some code => exact .inl ⟨code, State.takeEntry_refused (s := s.without e) hstale htest⟩
        | none => exact .inr ⟨⟨hi, hn, hstale, htest⟩, State.takeEntry_passed (s := s.without e) hstale htest⟩
    · exact .inl (by rw [State.takeKind, hdue]; simp only [if_neg hk])

/-! ## What an application leaves alone -/

/-- The generation, the Plan Engine, the store, the queue of changes, the receivers and the ports' lists are as they were. -/
structure State.EngineFrame (s t : State) : Prop where
  generation : t.generation = s.generation
  engine : t.engine = s.engine
  store : t.store = s.store
  changes : t.changes = s.changes
  feeds : t.feeds = s.feeds
  resetHeld : t.resetHeld = s.resetHeld
  queues : ∀ p, (s.port p).SameQueues (t.port p)

namespace State.EngineFrame

theorem refl (s : State) : s.EngineFrame s := ⟨rfl, rfl, rfl, rfl, rfl, rfl, fun _ => .refl _⟩

theorem trans {s t u : State} (h : s.EngineFrame t) (g : t.EngineFrame u) : s.EngineFrame u where
  generation := g.generation.trans h.generation
  engine := g.engine.trans h.engine
  store := g.store.trans h.store
  changes := g.changes.trans h.changes
  feeds := g.feeds.trans h.feeds
  resetHeld := g.resetHeld.trans h.resetHeld
  queues p := (h.queues p).trans (g.queues p)

end State.EngineFrame

theorem State.FeedFrame.engineFrame {s t : State} (h : s.FeedFrame t) : s.EngineFrame t :=
  ⟨h.generation, h.engine, h.store, h.changes, h.feeds, h.resetHeld, h.planFrame.queues⟩

theorem State.AirFrame.engineFrame {s t : State} (h : s.AirFrame t) : s.EngineFrame t := h.feedFrame.engineFrame

theorem State.engineFrame_of_ports {s t : State} (hg : t.generation = s.generation) (he : t.engine = s.engine)
    (hs : t.store = s.store) (hc : t.changes = s.changes) (hf : t.feeds = s.feeds) (hr : t.resetHeld = s.resetHeld)
    (hp : t.ports = s.ports) : s.EngineFrame t :=
  ⟨hg, he, hs, hc, hf, hr, fun p => by rw [State.port_congr hp]; exact .refl _⟩

theorem State.engineFrame_applyRecord (s : State) (k : SlotIx) (r : SlotRecord) : s.EngineFrame (s.applyRecord k r) := by
  have h := s.recordFrame_applyRecord k r
  refine ⟨h.generation, h.engine, h.store, h.changes, h.feeds, h.resetHeld, fun p => ?_⟩
  obtain ⟨l, c, _, e⟩ := h.port p
  rw [e]
  exact ⟨rfl, rfl, rfl⟩

theorem State.engineFrame_modSlot (s : State) (k : SlotIx) (f : Slot → Slot) : s.EngineFrame (s.modSlot k f) :=
  State.engineFrame_of_ports rfl rfl rfl rfl rfl rfl rfl

theorem State.engineFrame_applyPower (s : State) (k : SlotIx) (p : Nat) : s.EngineFrame (s.applyPower k p) :=
  (s.engineFrame_modSlot k _).trans (State.airFrame_govern _).engineFrame

theorem State.engineFrame_applyThresholds (s : State) (k : SlotIx) (t : Int) (h l r : Nat) :
    s.EngineFrame (s.applyThresholds k t h l r) := s.engineFrame_modSlot k _

theorem State.engineFrame_applyEnable (s : State) (k : SlotIx) (v : Bool) : s.EngineFrame (s.applyEnable k v) := by
  have formed := (s.engineFrame_modSlot k fun x => { x with record := { x.record with enabled := v } }).trans
    ((State.airFrame_reformSlot _ k).trans (State.airFrame_formQuiet _)).engineFrame
  unfold State.applyEnable
  simp only
  split
  · exact formed.trans (State.airFrame_wake _).engineFrame
  · exact formed

theorem State.engineFrame_wide (s : State) (w : PlanWide) : s.EngineFrame { s with wide := w } :=
  State.engineFrame_of_ports rfl rfl rfl rfl rfl rfl rfl

theorem State.engineFrame_formBudget (s : State) : s.EngineFrame s.formBudget :=
  State.engineFrame_of_ports rfl rfl rfl rfl rfl rfl rfl

theorem State.engineFrame_applyParams (s : State) (b rs wc q ho : Nat) : s.EngineFrame (s.applyParams b rs wc q ho) := by
  unfold State.applyParams
  exact ((s.engineFrame_wide _).trans (State.engineFrame_formBudget _)).trans
    ((State.airFrame_govern _).trans (State.airFrame_measureQuiet _)).engineFrame

theorem State.airFrame_txEnableWritten (s : State) (v : Bool) : s.AirFrame (s.txEnableWritten v) := by
  unfold State.txEnableWritten
  split
  · exact .refl s
  · split
    · exact s.airFrame_txEnabled
    · exact s.airFrame_txDisabled

theorem State.engineFrame_applyTransmit (s : State) (v : Bool) : s.EngineFrame (s.applyTransmit v) :=
  (s.engineFrame_wide { s.wide with txEnable := v }).trans (State.airFrame_txEnableWritten _ _).engineFrame

theorem State.engineFrame_out (s : State) (o : Output) : s.EngineFrame { s with out := o } :=
  State.engineFrame_of_ports rfl rfl rfl rfl rfl rfl rfl

theorem State.engineFrame_applyClearLockout (s : State) : s.EngineFrame s.applyClearLockout := by
  have cleared := (s.engineFrame_out { s.out with trips := [] }).trans (State.airFrame_setTx _ .offAir).engineFrame
  unfold State.applyClearLockout
  simp only
  split
  · exact cleared.trans (State.airFrame_enterWarmUp _).engineFrame
  · exact cleared

/-! ## What every application does (R41) -/

theorem State.EngineFrame.applied {s u : State} (h : s.EngineFrame u) (e : Entry) : Applied s (u.commit e) e :=
  State.applied_commit (fun p => (h.queues p).outcomes) h.generation rfl rfl rfl rfl

/-- The record and the latches of an application stay through what the transmitter then does. -/
theorem Applied.air {s t u : State} {e : Entry} (h : Applied s t e) (f : t.AirFrame u) : Applied s u e := by
  obtain ⟨hgen, hself, hother, hout, hplan⟩ := h
  exact ⟨f.generation.trans hgen, (f.outcomes _).trans hself, (f.outcomes _).trans hother, f.latched hout, f.latched hplan⟩

/-- An application after something that is none is the application of the two. -/
theorem Applied.after {s t u : State} {e : Entry} (h : Applied t u e) (hg : t.generation = s.generation)
    (ho : ∀ p, (t.port p).outcomes = (s.port p).outcomes) : Applied s u e := by
  obtain ⟨hgen, hself, hother, hout, hplan⟩ := h
  rw [hg, ho] at hself
  rw [ho] at hother
  rw [hg] at hgen
  exact ⟨hgen, hself, hother, hout, hplan⟩

/-- The clamped entry is recorded as the entry itself (R38, R52). -/
theorem Applied.of_clamped {s t : State} {e : Entry} (h : Applied s t e.clamped) : Applied s t e := by
  have h' := h
  simp only [Applied, Entry.clamped, clampChange_kind, clampChange_argument] at h'
  exact h'

theorem State.recordApplied_applied (s : State) (e : Entry) (k : SlotIx) (r : SlotRecord) : Applied s (s.recordApplied e k r) e :=
  ((State.engineFrame_applyRecord { s with engine := .idle } k r).applied e).after rfl fun _ => rfl

/-- What an engine in IDLE carries out: an application, or the drain of one slot, or that of a load (R41, R43, R47). -/
theorem State.carryOut_cases (s : State) (e : Entry) :
    (∃ u, s.EngineFrame u ∧ s.carryOut e = u.commit e) ∨
      (∃ k r, ((∃ q, e.change = .assignSlot k q ∧ r = { q with assigned := true }) ∨ (e.change = .releaseSlot k ∧ r = .rest)) ∧
        (s.slot k).transmitting = true ∧ s.carryOut e =
          ((({ s with engine := .draining e }).modSlot k fun x => { x with retuning := true }).reformSlot k).afterOff) ∨
      ∃ n, e.change = .loadPreset n ∧ s.carryOut e = s.takeLoad e := by
  have slotChange : ∀ k r, s.carryOut e = s.takeSlotChange e k r →
      ((∃ q, e.change = .assignSlot k q ∧ r = { q with assigned := true }) ∨ (e.change = .releaseSlot k ∧ r = .rest)) →
      (∃ u, s.EngineFrame u ∧ s.carryOut e = u.commit e) ∨
      (∃ k r, ((∃ q, e.change = .assignSlot k q ∧ r = { q with assigned := true }) ∨ (e.change = .releaseSlot k ∧ r = .rest)) ∧
        (s.slot k).transmitting = true ∧ s.carryOut e =
          ((({ s with engine := .draining e }).modSlot k fun x => { x with retuning := true }).reformSlot k).afterOff) ∨
      ∃ n, e.change = .loadPreset n ∧ s.carryOut e = s.takeLoad e := by
    intro k r he hc
    by_cases hk : (s.slot k).transmitting = true
    · exact .inr (.inl ⟨k, r, hc, hk, by rw [he, State.takeSlotChange, if_pos hk]⟩)
    · exact .inl ⟨_, s.engineFrame_applyRecord k r, by rw [he, State.takeSlotChange, if_neg hk]⟩
  cases hc : e.change with
  | assignSlot k r => rw [← hc]; exact slotChange k _ (by simp only [State.carryOut, hc]) (.inl ⟨r, hc, rfl⟩)
  | releaseSlot k => rw [← hc]; exact slotChange k .rest (by simp only [State.carryOut, hc]) (.inr ⟨hc, rfl⟩)
  | setPower k p => exact .inl ⟨_, s.engineFrame_applyPower k p, by simp only [State.carryOut, hc]⟩
  | setThresholds k t h l r => exact .inl ⟨_, s.engineFrame_applyThresholds k t h l r, by simp only [State.carryOut, hc]⟩
  | setSlotEnable k v => exact .inl ⟨_, s.engineFrame_applyEnable k v, by simp only [State.carryOut, hc]⟩
  | setPlanParams b rs wc q ho => exact .inl ⟨_, s.engineFrame_applyParams b rs wc q ho, by simp only [State.carryOut, hc]⟩
  | setTransmit v => exact .inl ⟨_, s.engineFrame_applyTransmit v, by simp only [State.carryOut, hc]⟩
  | loadPreset n => exact .inr (.inr ⟨n, rfl, by simp only [State.carryOut, hc]⟩)
  | clearLockout => exact .inl ⟨_, s.engineFrame_applyClearLockout, by simp only [State.carryOut, hc]⟩

/-! ## The plan and its generation (R17) -/

/-- The generation has risen with the application of a change, or with the boot that loads (R17, R41, R144). -/
def PlanMoved (s t : State) : Prop :=
  t.generation = s.generation + 1 ∧
    ((∃ p r, (t.port p).outcomes = pushOutcome (s.port p).outcomes r ∧ r.code = .applied ∧ r.generation = some t.generation) ∨
      (s.engine = .booting ∧ t.engine = .idle ∧ t.store.bootResult = .loaded))

/-- The plan stands with its generation, or both have moved. -/
def PlanStandsOrMoves (s t : State) : Prop := (t.generation = s.generation ∧ SamePlan s t) ∨ PlanMoved s t

theorem Applied.planMoved {s t : State} {e : Entry} (h : Applied s t e) : PlanMoved s t := by
  obtain ⟨hgen, hself, _⟩ := h
  exact ⟨hgen, .inl ⟨e.origin, _, hself, rfl, by rw [hgen]⟩⟩

theorem State.PlanFrame.stands {s t : State} (h : s.PlanFrame t) : PlanStandsOrMoves s t := .inl ⟨h.generation, h.samePlan⟩

theorem State.StoreMove.stands {s t : State} (h : s.StoreMove t) : PlanStandsOrMoves s t := by
  rw [h]
  exact .inl ⟨rfl, rfl, fun _ => rfl⟩

theorem PlanStandsOrMoves.after {s t u : State} (h : PlanStandsOrMoves t u) (hg : t.generation = s.generation)
    (he : t.engine = .booting → s.engine = .booting) (hp : SamePlan s t) (ho : ∀ p, (t.port p).outcomes = (s.port p).outcomes) :
    PlanStandsOrMoves s u := by
  obtain ⟨hwide, hrecord⟩ := hp
  rcases h with ⟨hgen, hw, hr⟩ | ⟨hgen, h⟩
  · exact .inl ⟨hgen.trans hg, hw.trans hwide, fun k => (hr k).trans (hrecord k)⟩
  · rw [hg] at hgen
    refine .inr ⟨hgen, ?_⟩
    rcases h with ⟨p, r, hout, hr⟩ | ⟨hboot, h⟩
    · exact .inl ⟨p, r, by rw [hout, ho], hr⟩
    · exact .inr ⟨he hboot, h⟩

theorem State.afterOff_standsOrMoves (s : State) : PlanStandsOrMoves s s.afterOff := by
  have closed := State.airFrame_closeIfOff s.endDrain
  rcases s.endDrain_cases with e | ⟨x, k, r, _, _, _, e⟩ | ⟨x, n, _, _, _, e⟩ <;> rw [e] at closed <;>
    rw [State.afterOff, e]
  · exact closed.planFrame.stands
  · exact .inr ((s.recordApplied_applied x k r).air closed).planMoved
  · exact .inl ⟨closed.generation, closed.samePlan⟩

theorem State.carryOut_standsOrMoves (s : State) (e : Entry) : PlanStandsOrMoves s (s.carryOut e) := by
  rcases s.carryOut_cases e with ⟨u, hu, h⟩ | ⟨k, _, _, _, h⟩ | ⟨n, _, h⟩ <;> rw [h]
  · exact .inr (hu.applied e).planMoved
  · refine (State.afterOff_standsOrMoves _).after ?_ ?_ ⟨?_, fun j => ?_⟩ fun p => ?_ 
    · simp
    · simp
    · simp
    · rw [State.reformSlot_slot_record, State.slot_modSlot]
      split
      · rename_i hj
        rw [hj]; rfl
      · rfl
    · simp
  · unfold State.takeLoad
    refine (State.afterOff_standsOrMoves _).after ?_ ?_ ⟨?_, fun j => ?_⟩ fun p => ?_ 
    · simp
    · simp
    · simp
    · simp
    · simp

theorem State.takeKind_standsOrMoves (s : State) (kind : ChangeKind) : PlanStandsOrMoves s (s.takeKind kind) := by
  rcases s.takeKind_cases kind with h | ⟨e, _, _, ⟨code, h⟩ | ⟨_, h⟩⟩ <;> rw [h]
  · exact (State.PlanFrame.refl s).stands
  · exact .inl ⟨rfl, rfl, fun _ => rfl⟩
  · exact ((s.without e).carryOut_standsOrMoves e.clamped).after rfl id ⟨rfl, fun _ => rfl⟩ fun _ => rfl

theorem State.airFrame_endBoot_samePlan (s : State) (r : BootResult) :
    (s.endBoot r).generation = s.generation ∧ SamePlan s (s.endBoot r) ∧ (s.endBoot r).engine = .idle ∧
      (s.endBoot r).store = { s.store with bootResult := r } := by
  have ended := (State.planFrame_latchBoth { s with engine := .idle, store := { s.store with bootResult := r } } .boot).trans
    (State.airFrame_txEnableWritten _ false).planFrame
  exact ⟨ended.generation, ended.samePlan, ended.engine, ended.store⟩

theorem State.endOfReset_standsOrMoves (s : State) (hi lo : Bool) : PlanStandsOrMoves s (s.endOfReset hi lo) := by
  have booted : ∀ r, PlanStandsOrMoves s ((s.released hi lo).endBoot r) := fun r => by
    obtain ⟨hgen, ⟨hwide, hrecord⟩, _⟩ := (s.released hi lo).airFrame_endBoot_samePlan r
    exact .inl ⟨by simpa using hgen, by simpa using hwide, by simpa using hrecord⟩
  rw [State.endOfReset_eq]
  rcases (s.released hi lo).bootDecision_cases with ⟨_, e⟩ | ⟨_, _, _, e⟩ | ⟨_, _, _, e⟩ | ⟨_, _, _, _, e⟩ <;> rw [e]
  · exact booted _
  · exact booted _
  · exact booted _
  · exact .inl ⟨by simp, by simp, fun k => State.released_slot_record s hi lo k⟩

theorem State.completeLoad_applied (s : State) (e : Entry) (img : PlanImage) : Applied s (s.completeLoad e img) e := by
  obtain ⟨_, _, hgen, _, _, _, _, _, _, hport⟩ := s.loadImage_rest img
  refine Applied.air (State.applied_commit (fun p => ?_) hgen rfl rfl rfl rfl) (State.airFrame_txEnableWritten _ _)
  obtain ⟨l, c, _, h⟩ := hport p
  rw [h]

theorem State.completeBoot_planMoved {s : State} (hb : s.engine = .booting) (img : PlanImage) :
    PlanMoved s (s.completeBoot img) := by
  obtain ⟨hgen, _, hengine, hstore⟩ :=
    State.airFrame_endBoot_samePlan { s.loadImage img with generation := s.generation + 1 } .loaded
  exact ⟨hgen, .inr ⟨hb, hengine, by rw [State.completeBoot, hstore]⟩⟩

/-- The state with the read ended, before the engine acts on the image (R139). -/
def State.readEnded (s : State) : State := { s with store := s.store.endRead }

theorem State.endRead_loading {s : State} {n : PresetIx} {img : PlanImage} {e : Entry} (ha : s.store.activity = .reading n)
    (hp : s.store.preset n = .valid img) (he : s.engine = .loading e) : s.endRead = s.readEnded.completeLoad e img := by
  simp only [State.endRead, ha, hp, he, State.readEnded]

theorem State.endRead_booting {s : State} {n : PresetIx} {img : PlanImage} (ha : s.store.activity = .reading n)
    (hp : s.store.preset n = .valid img) (he : s.engine = .booting) : s.endRead = s.readEnded.completeBoot img := by
  simp only [State.endRead, ha, hp, he, State.readEnded]

/-- The end of a read completes a LOAD_PRESET or a boot, or is no event (R49, R144, notes/assumptions/16.md). -/
theorem State.endRead_cases (s : State) :
    s.endRead = s ∨
      (∃ n img e, s.store.activity = .reading n ∧ s.store.preset n = .valid img ∧ s.engine = .loading e ∧
        s.endRead = s.readEnded.completeLoad e img) ∨
      ∃ n img, s.store.activity = .reading n ∧ s.store.preset n = .valid img ∧ s.engine = .booting ∧
        s.endRead = s.readEnded.completeBoot img := by
  cases ha : s.store.activity with
  | reading n =>
    cases hp : s.store.preset n with
    | valid img =>
      cases he : s.engine with
      | loading e => exact .inr (.inl ⟨n, img, e, rfl, hp, rfl, State.endRead_loading ha hp he⟩)
      | booting => exact .inr (.inr ⟨n, img, rfl, hp, rfl, State.endRead_booting ha hp he⟩)
      | idle | draining e => exact .inl (by simp only [State.endRead, ha, hp, he])
    | empty | corrupt => exact .inl (by simp only [State.endRead, ha, hp])
  | _ => exact .inl (by simp only [State.endRead, ha])

theorem State.endRead_standsOrMoves (s : State) : PlanStandsOrMoves s s.endRead := by
  rcases s.endRead_cases with h | ⟨n, img, e, _, _, _, h⟩ | ⟨n, img, _, _, hb, h⟩ <;> rw [h]
  · exact (State.PlanFrame.refl s).stands
  · exact .inr ((s.readEnded.completeLoad_applied e img).after (s := s) rfl fun _ => rfl).planMoved
  · exact PlanStandsOrMoves.after (t := s.readEnded) (.inr (State.completeBoot_planMoved (s := s.readEnded) hb img)) rfl id ⟨rfl, fun _ => rfl⟩
      fun _ => rfl

theorem exec_standsOrMoves {c : Instr} {s t : State} (hc : c ≠ .deviceReset) (h : exec c s = .next t) : PlanStandsOrMoves s t :=
  exec_plan_cases (still := fun _ _ hf => hf.stands)
    (afterOff := fun _ u hf =>
      u.afterOff_standsOrMoves.after hf.generation (fun hb => hf.engine ▸ hb) hf.samePlan fun p => (hf.queues p).outcomes)
    (desk := fun _ _ m => .inl ⟨m.frame.generation, m.frame.wide, fun k => by rw [m.frame.slot]⟩)
    (endOfReset := fun s hi lo _ => s.endOfReset_standsOrMoves hi lo)
    (taking := State.takeKind_standsOrMoves)
    (endErasing := fun s => s.storeMove_endErasing.stands) (endProgramming := fun s v => (s.storeMove_endProgramming v).stands)
    (endErase := fun s => s.storeMove_endErase.stands) (endBootWrite := fun s => s.storeMove_endBootWrite.stands)
    (endRead := State.endRead_standsOrMoves) hc h

/-- The part's own events are no device reset. -/
theorem State.deviceReset_not_possible (s : State) : Instr.deviceReset ∉ s.possibleEvents := by
  have taking : ∀ kind, Instr.deviceReset ≠ takingOf kind := fun kind => by cases kind <;> nofun
  have takings : Instr.deviceReset ∉ s.dueTakings := by
    unfold State.dueTakings
    split
    · simpa using taking _
    · exact List.not_mem_nil
  have slots : ∀ k, Instr.deviceReset ∉ (s.slot k).dueEvents k := fun k => by
    unfold Slot.dueEvents
    split <;> split <;> simp
  have quiet : Instr.deviceReset ∉ s.dueQuiet := by
    unfold State.dueQuiet
    split
    · split <;> simp
    · simp
  have departure : Instr.deviceReset ∉ s.dueDeparture := by
    unfold State.dueDeparture
    split
    · split <;> simp
    · simp
  have phase : Instr.deviceReset ∉ s.store.activity.endsWith s.fresh := by
    cases s.store.activity <;> simp [Activity.endsWith]
  have silence : ∀ p, Instr.deviceReset ∉ (s.port p).dueEvents p := fun p => by
    unfold PortState.dueEvents
    split
    · split <;> simp
    · simp
  have urgent : ∀ p, Instr.deviceReset ∉ (s.port p).pendingTaking p := fun p => by
    unfold PortState.pendingTaking
    split <;> simp
  simp only [State.possibleEvents, State.dueEvents, List.mem_append, List.mem_flatMap, not_or, not_exists, not_and]
  refine ⟨⟨⟨⟨⟨⟨⟨⟨⟨⟨takings, fun k _ => slots k⟩, ?_⟩, quiet⟩, departure⟩, ?_⟩, ?_⟩, silence .a⟩, silence .b⟩, urgent .a⟩, urgent .b⟩
  · split <;> simp
  · split
    · exact phase
    · exact List.not_mem_nil
  · split <;> simp

/-- Settles O9: an application and a boot load raise the generation, and no other command but a device reset, nor the passing of a
millisecond, writes a record or a plan-wide field. -/
theorem planMovesOnlyWithTheGeneration : Obligations.PlanMovesOnlyWithTheGeneration := by
  unfold Obligations.PlanMovesOnlyWithTheGeneration
  intro s t hstep
  unfold step at hstep
  split at hstep
  · rename_i c rest hp
    simp only [hp, List.head?_cons, ne_eq, Option.some.injEq]
    refine ⟨?_, fun hc => (exec_standsOrMoves hc hstep).after rfl id ⟨rfl, fun _ => rfl⟩ fun _ => rfl⟩
    rintro rfl
    obtain rfl := Host.Outcome.next.inj hstep
    rfl
  · rename_i hp
    simp only [hp, List.head?_nil, reduceCtorEq, false_implies, ne_eq, not_false_eq_true, true_implies, true_and]
    unfold idle at hstep
    split at hstep
    · obtain rfl := Host.Outcome.next.inj hstep
      exact (State.PlanFrame.refl s).stands
    · split at hstep
      · rename_i c hc
        have : c ≠ .deviceReset := by
          rintro rfl
          exact s.deviceReset_not_possible (List.mem_of_getElem? hc)
        exact (exec_standsOrMoves this hstep).after rfl id ⟨rfl, fun _ => rfl⟩ fun _ => rfl
      · obtain rfl := Host.Outcome.next.inj hstep
        exact .inl ⟨s.tick_generation, s.tick_wide, fun k => by
          have : State.slot { s.tick with fresh := s.fresh + 1 } k = s.tick.slot k := rfl
          rw [this, State.slot_tick]⟩

end Sys2Proof.Machine
end

section
/-! PROOF. The plan stays valid (R16): what the store holds after each of its events, what an application may write, and that a drained
record still passes its tests at the end of the drain. -/

namespace Sys2Proof.Machine

/-! ## The images that the store holds -/

/-- The store holds an image: a VALID preset carries it, or a save writes it (R134, R137). -/
def Store.Holds (st : Store) (img : PlanImage) : Prop :=
  (∃ n, st.preset n = .valid img) ∨ ∃ n p, st.activity = .savingErase n img p ∨ st.activity = .savingProgram n img p

theorem Store.holds_all_iff (st : Store) (Q : PlanImage → Prop) :
    (∀ img, st.Holds img → Q img) ↔
      (∀ n img, st.preset n = .valid img → Q img) ∧
        ∀ n img p, st.activity = .savingErase n img p ∨ st.activity = .savingProgram n img p → Q img := by
  constructor
  · exact fun h => ⟨fun n img hn => h img (.inl ⟨n, hn⟩), fun n img p ha => h img (.inr ⟨n, p, ha⟩)⟩
  · rintro ⟨hpreset, hsave⟩ img (⟨n, hn⟩ | ⟨n, p, ha⟩)
    · exact hpreset n img hn
    · exact hsave n img p ha

theorem Store.imagesValid_iff (st : Store) : st.ImagesValid ↔ ∀ img, st.Holds img → img.Valid := (st.holds_all_iff _).symm

/-- With the presets as they were, a store that saves nothing holds only what it held. -/
theorem Store.Holds.of_presets {st st' : Store} {img : PlanImage} (h : st'.Holds img) (hp : ∀ n, st'.preset n = st.preset n)
    (ha : ∀ n p, st'.activity ≠ .savingErase n img p ∧ st'.activity ≠ .savingProgram n img p) : st.Holds img := by
  rcases h with ⟨n, hn⟩ | ⟨n, p, hs | hs⟩
  · exact .inl ⟨n, by rw [← hp, hn]⟩
  · exact absurd hs (ha n p).1
  · exact absurd hs (ha n p).2

/-- With the presets and the activity as they were, the store holds what it held. -/
theorem Store.Holds.of_same {st st' : Store} {img : PlanImage} (h : st'.Holds img) (hp : ∀ n, st'.preset n = st.preset n)
    (ha : st'.activity = st.activity) : st.Holds img := by
  rcases h with ⟨n, hn⟩ | ⟨n, p, hs⟩
  · exact .inl ⟨n, by rw [← hp, hn]⟩
  · exact .inr ⟨n, p, by rwa [← ha]⟩

theorem Store.Holds.of_putPreset {st : Store} {n : PresetIx} {v : Preset} {img : PlanImage} (hv : v.isValid = false)
    (h : (st.putPreset n v).Holds img) : st.Holds img := by
  rcases h with ⟨m, hm⟩ | ⟨m, p, hs⟩
  · rw [Store.preset_putPreset] at hm
    split at hm
    · rw [hm] at hv
      exact absurd hv (by simp [Preset.isValid])
    · exact .inl ⟨m, hm⟩
  · exact .inr ⟨m, p, hs⟩

theorem Store.Holds.of_askRead {st : Store} {n : PresetIx} {img : PlanImage} (h : (st.askRead n).Holds img) : st.Holds img := by
  unfold Store.askRead at h
  split at h
  · exact h.of_presets (Store.preset_begin st _ _) fun _ _ => by simp [Store.begin]
  · exact h.of_same (fun _ => rfl) rfl

theorem Store.finish_activity (st : Store) :
    (∃ n, st.pendingRead = some n ∧ st.finish.activity = .reading n) ∨ (st.pendingRead = none ∧ st.finish.activity = .idle) := by
  unfold Store.finish
  split
  · rename_i n h
    exact .inl ⟨n, h, rfl⟩
  · rename_i h
    exact .inr ⟨h, rfl⟩

theorem Store.Holds.of_finish {st : Store} {img : PlanImage} (h : st.finish.Holds img) : ∃ n, st.preset n = .valid img := by
  rcases h with ⟨n, hn⟩ | ⟨n, p, hs⟩
  · exact ⟨n, by rwa [Store.preset_finish] at hn⟩
  · rcases st.finish_activity with ⟨m, _, ha⟩ | ⟨_, ha⟩ <;> rw [ha] at hs <;> simp at hs

theorem Store.Holds.of_endRead {st : Store} {img : PlanImage} (h : st.endRead.Holds img) : st.Holds img :=
  h.of_presets st.preset_endRead fun _ _ => by simp [Store.endRead, Store.begin]

theorem Store.Holds.of_cut {st : Store} {img : PlanImage} (h : st.cut.Holds img) : st.Holds img := by
  have cut : ∀ {nv : Store}, Store.Holds { Store.factory with presets := nv.presets, boot := nv.boot } img → ∃ n, nv.preset n = .valid img := by
    rintro nv (⟨n, hn⟩ | ⟨n, p, hs | hs⟩)
    · exact ⟨n, hn⟩
    · exact absurd hs (by simp [Store.factory])
    · exact absurd hs (by simp [Store.factory])
  obtain ⟨n, hn⟩ := cut h
  have broken : ∀ m, (st.putPreset m .corrupt).preset n = .valid img → st.Holds img := fun m hm =>
    Store.Holds.of_putPreset (v := .corrupt) rfl (.inl ⟨n, hm⟩)
  split at hn
  · exact broken _ hn
  · exact broken _ hn
  · exact broken _ hn
  all_goals exact .inl ⟨n, hn⟩

/-! ## The store's events -/

theorem State.completeOperation_store (s : State) (st : Store) (op : PortOp) (p : Port) (done : Bool) :
    (s.completeOperation st op p done).store = ({ st with lastResult := some ⟨op, p, done⟩ } : Store).finish := rfl

theorem State.holds_endErasing {s : State} {img : PlanImage} (h : s.endErasing.store.Holds img) : s.store.Holds img := by
  unfold State.endErasing at h
  split at h
  · rename_i n snapshot p ha
    rcases h with ⟨m, hm⟩ | ⟨m, q, hs | hs⟩
    · exact Store.Holds.of_putPreset (v := .empty) rfl (.inl ⟨m, by rwa [Store.preset_begin] at hm⟩)
    · simp [Store.begin] at hs
    · obtain ⟨rfl, rfl, rfl⟩ : n = m ∧ snapshot = img ∧ p = q := by simpa [Store.begin] using hs
      exact .inr ⟨n, p, .inl ha⟩
  · exact h

theorem State.holds_endProgramming {s : State} {v : Bool} {img : PlanImage} (h : (s.endProgramming v).store.Holds img) :
    s.store.Holds img := by
  unfold State.endProgramming at h
  split at h
  · rename_i n snapshot p ha
    rw [State.completeOperation_store] at h
    obtain ⟨m, hm⟩ := h.of_finish
    have hm : (s.store.putPreset n (if v then .valid snapshot else .corrupt)).preset m = .valid img := hm
    rw [Store.preset_putPreset] at hm
    split at hm
    · cases v
      · simp at hm
      · obtain rfl : snapshot = img := by simpa using hm
        exact .inr ⟨n, p, .inr ha⟩
    · exact .inl ⟨m, hm⟩
  · exact h

theorem State.holds_endErase {s : State} {img : PlanImage} (h : s.endErase.store.Holds img) : s.store.Holds img := by
  unfold State.endErase at h
  split at h
  · rename_i n p ha
    rw [State.completeOperation_store] at h
    obtain ⟨m, hm⟩ := h.of_finish
    exact Store.Holds.of_putPreset (n := n) (v := .empty) rfl (.inl ⟨m, hm⟩)
  · exact h

theorem State.holds_endBootWrite {s : State} {img : PlanImage} (h : s.endBootWrite.store.Holds img) : s.store.Holds img := by
  unfold State.endBootWrite at h
  split at h
  · rw [State.completeOperation_store] at h
    obtain ⟨m, hm⟩ := h.of_finish
    exact .inl ⟨m, hm⟩
  · exact h

/-! ## The store at the ports -/

/-- What an execution does to the store: a READ_STORE may invert a toggle bit, and an operation starts where the test of R136 is
passed. -/
theorem State.act_store_cases (s : State) (p : Port) (c : Command) (w : List Byte) :
    (∃ x, (s.act p c w).2.store = { s.store with toggle := x }) ∨
      ∃ op : PortOp, op.inUse s.engine = false ∧ s.store.activity = .idle ∧ s.resetHeld = false ∧
        (s.act p c w).2.store = s.store.begin (op.firstPhase s.planImage p).1 (op.firstPhase s.planImage p).2 := by
  have same : ∀ {t : State}, t.store = s.store → (∃ x, t.store = { s.store with toggle := x }) := fun h => ⟨s.store.toggle, h⟩
  have store : ∀ o, (∃ x, (s.storeCommand p o).2.store = { s.store with toggle := x }) ∨
      ∃ op : PortOp, op.inUse s.engine = false ∧ s.store.activity = .idle ∧ s.resetHeld = false ∧
        (s.storeCommand p o).2.store = s.store.begin (op.firstPhase s.planImage p).1 (op.firstPhase s.planImage p).2 := fun o => by
    rw [State.storeCommand_eq]
    split
    · exact .inl (same rfl)
    · rename_i hu
      split
      · rename_i hidle
        exact .inr ⟨o, Bool.eq_false_iff.mpr hu, hidle.1, hidle.2, rfl⟩
      · exact .inl (same rfl)
  cases c with
  | submitChange =>
    refine .inl (same ?_)
    simp only [State.act, State.submit]
    split
    · rfl
    · split <;> rfl
  | readSlot => refine .inl (same ?_); simp only [State.act, State.doReadSlot]; split <;> rfl
  | setPeerFlags => refine .inl (same ?_); simp only [State.act, State.doSetPeer]; split <;> rfl
  | scanRange => refine .inl (same ?_); simp only [State.act, State.doScanRange]; split <;> rfl
  | readStore =>
    refine .inl ?_
    simp only [State.act, State.doReadStore, Store.touch]
    split
    · exact ⟨_, rfl⟩
    · exact ⟨_, rfl⟩
  | savePreset =>
    simp only [State.act, State.doSave]
    split
    · exact store _
    · exact .inl (same rfl)
  | erasePreset =>
    simp only [State.act, State.doErase]
    split
    · exact store _
    · exact .inl (same rfl)
  | setBoot =>
    simp only [State.act, State.doSetBoot]
    split
    · exact store _
    · exact .inl (same rfl)
  | _ => exact .inl (same rfl)

theorem State.purge_store (s : State) (p : Port) : (s.purge p).store = s.store := by
  have recorded : ∀ (l : List Entry) (t : State),
      (l.foldl (fun t e => t.placeOutcome p (e.outcome .purged none)) t).store = t.store := by
    intro l
    induction l with
    | nil => exact fun _ => rfl
    | cons e l ih => exact fun t => ih _
  exact recorded _ _

/-- An operation that a port starts holds, of new images, the snapshot of the plan alone (R137). -/
theorem State.holds_act {s : State} {p : Port} {c : Command} {w : List Byte} {img : PlanImage}
    (h : (s.act p c w).2.store.Holds img) : s.store.Holds img ∨ img = s.planImage := by
  rcases s.act_store_cases p c w with ⟨x, e⟩ | ⟨op, _, _, _, e⟩ <;> rw [e] at h
  · exact .inl (h.of_same (fun _ => rfl) rfl)
  · rcases h with ⟨n, hn⟩ | ⟨n, q, hs⟩
    · exact .inl (.inl ⟨n, by rwa [Store.preset_begin] at hn⟩)
    · cases op <;> simp [Store.begin, PortOp.firstPhase] at hs
      exact .inr hs.2.1.symm

/-! ## A valid plan -/

theorem conflict_comm (r q : SlotRecord) : conflict r q = conflict q r := by
  unfold conflict
  have : (r.output - q.output).natAbs = (q.output - r.output).natAbs := by omega
  rw [this, add_comm]

/-- What the validity tests read of a record (section 1.4). -/
structure SlotRecord.SamePlace (r q : SlotRecord) : Prop where
  assigned : q.assigned = r.assigned
  width : q.width = r.width
  primary : q.primary = r.primary
  fallback : q.fallback = r.fallback
  output : q.output = r.output

theorem SlotRecord.SamePlace.refl (r : SlotRecord) : r.SamePlace r := ⟨rfl, rfl, rfl, rfl, rfl⟩

theorem SlotRecord.SamePlace.bandTest {r q : SlotRecord} (h : r.SamePlace q) : bandTest q = bandTest r := by
  unfold Machine.bandTest
  rw [h.width, h.primary, h.fallback, h.output]

theorem SlotRecord.SamePlace.conflict {r q r' q' : SlotRecord} (h : r.SamePlace r') (g : q.SamePlace q') :
    conflict r' q' = conflict r q := by
  unfold Machine.conflict
  rw [h.width, h.output, g.width, g.output]

theorem PlanValid.of_samePlace {f g : SlotIx → SlotRecord} (h : PlanValid f) (hp : ∀ k, (f k).SamePlace (g k)) : PlanValid g := by
  obtain ⟨hfit, hconf⟩ := h
  constructor
  · intro k ha
    rw [(hp k).assigned] at ha
    obtain ⟨hw, hb⟩ := hfit k ha
    exact ⟨by rwa [(hp k).width], by rwa [(hp k).bandTest]⟩
  · intro i j hij hi hj
    rw [(hp i).assigned] at hi
    rw [(hp j).assigned] at hj
    rw [(hp i).conflict (hp j)]
    exact hconf i j hij hi hj

theorem conflictTest_iff (k : SlotIx) (r : SlotRecord) (s : State) :
    conflictTest k r s = true ↔ ∀ j, j ≠ k → (s.slot j).record.assigned = true → conflict r (s.slot j).record = false := by
  simp only [conflictTest, List.all_eq_true, Bool.or_eq_true, beq_iff_eq, Bool.not_eq_true']
  constructor
  · intro h j hj ha
    rcases h j (mem_slotIndices j) with (e | e) | e
    · exact absurd e hj
    · simp [ha] at e
    · exact e
  · intro h j _
    by_cases hj : j = k
    · exact .inl (.inl hj)
    · cases ha : (s.slot j).record.assigned
      · exact .inl (.inr rfl)
      · exact .inr (h j hj ha)

/-- A record that passes its tests, or an EMPTY one, leaves a valid plan valid (R14, R15, R16). -/
theorem State.PlanLaw.write {s t : State} {k : SlotIx} {r : SlotRecord} (h : s.PlanLaw)
    (ht : r.assigned = true → widthKnown r.width = true ∧ bandTest r = true ∧ conflictTest k r s = true)
    (hk : (t.slot k).record = r) (hj : ∀ j, j ≠ k → (t.slot j).record = (s.slot j).record) : t.PlanLaw := by
  obtain ⟨hfit, hconf⟩ := h
  have clear : r.assigned = true → ∀ j, j ≠ k → (s.slot j).record.assigned = true → conflict r (s.slot j).record = false := fun ha =>
    (conflictTest_iff k r s).mp (ht ha).2.2
  constructor
  · intro j
    show (t.slot j).record.Fits
    by_cases hjk : j = k
    · rw [hjk, hk]
      exact fun ha => ⟨(ht ha).1, (ht ha).2.1⟩
    · rw [hj j hjk]
      exact hfit j
  · intro i j hij
    show (t.slot i).record.assigned = true → (t.slot j).record.assigned = true → conflict (t.slot i).record (t.slot j).record = false
    by_cases hi : i = k
    · have hjk : j ≠ k := fun e => hij (hi.trans e.symm)
      rw [hi, hk, hj j hjk]
      exact fun ha hb => clear ha j hjk hb
    · rw [hj i hi]
      by_cases hjk : j = k
      · rw [hjk, hk, conflict_comm]
        exact fun ha hb => clear hb i hi ha
      · rw [hj j hjk]
        exact hconf i j hij

theorem State.PlanLaw.image {s : State} (h : s.PlanLaw) : s.planImage.Valid := by
  have : (fun k : SlotIx => s.planImage.records[k.val]) = fun k => (s.slot k).record := by
    funext k
    simp [State.planImage]
  rw [PlanImage.Valid, this]
  exact h

theorem conflictTest_congr {s t : State} (h : ∀ k, (t.slot k).record = (s.slot k).record) (k : SlotIx) (r : SlotRecord) :
    conflictTest k r t = conflictTest k r s := by
  simp only [conflictTest, h]

theorem State.PlanLaw.of_records {s t : State} (h : s.PlanLaw) (hr : ∀ k, (t.slot k).record = (s.slot k).record) : t.PlanLaw := by
  have : (fun k => (t.slot k).record) = fun k => (s.slot k).record := funext hr
  rw [State.PlanLaw, this]
  exact h

/-! ## The law through the operations -/

theorem State.validityLaw_iff (s : State) :
    s.ValidityLaw ↔ s.PlanLaw ∧ (∀ img, s.store.Holds img → img.Valid) ∧ s.DrainValid := by
  rw [State.ValidityLaw, Store.imagesValid_iff]

/-- With the plan as it was, and no other image held and no other change drained, the law stays. -/
theorem State.ValidityLaw.of_records {s t : State} (h : s.ValidityLaw) (hr : ∀ k, (t.slot k).record = (s.slot k).record)
    (hs : ∀ img, t.store.Holds img → s.store.Holds img ∨ img = s.planImage)
    (he : ∀ e, t.engine = .draining e → s.engine = .draining e) : t.ValidityLaw := by
  obtain ⟨hplan, himages, hdrain⟩ := s.validityLaw_iff.mp h
  refine t.validityLaw_iff.mpr ⟨hplan.of_records hr, fun img hi => ?_, fun e k r ht hc => ?_⟩
  · rcases hs img hi with hi | rfl
    · exact himages img hi
    · exact hplan.image
  · rw [conflictTest_congr hr]
    exact hdrain e k r (he e ht) hc

theorem State.ValidityLaw.planFrame {s t : State} (h : s.ValidityLaw) (f : s.PlanFrame t) : t.ValidityLaw :=
  h.of_records f.record (fun _ hi => .inl (by rwa [f.store] at hi)) fun e he => by rwa [f.engine] at he

theorem State.ValidityLaw.airFrame {s t : State} (h : s.ValidityLaw) (f : s.AirFrame t) : t.ValidityLaw := h.planFrame f.planFrame

/-- A plan that is valid with an engine that drains nothing is lawful with any store that holds valid images. -/
theorem State.validityLaw_of_still {s : State} (hp : s.PlanLaw) (hs : ∀ img, s.store.Holds img → img.Valid)
    (he : ∀ e, s.engine ≠ .draining e) : s.ValidityLaw :=
  s.validityLaw_iff.mpr ⟨hp, hs, fun e _ _ h => absurd h (he e)⟩

theorem State.ValidityLaw.applyRecord {s : State} (h : s.ValidityLaw) {k : SlotIx} {r : SlotRecord}
    (ht : r.assigned = true → widthKnown r.width = true ∧ bandTest r = true ∧ conflictTest k r s = true)
    (he : ∀ e, s.engine ≠ .draining e) : (s.applyRecord k r).ValidityLaw := by
  obtain ⟨hplan, himages, _⟩ := s.validityLaw_iff.mp h
  have frame := s.recordFrame_applyRecord k r
  refine State.validityLaw_of_still (hplan.write ht (s.applyRecord_record k r).1 fun j hj => by rw [frame.slot j hj])
    (fun img hi => himages img (by rwa [frame.store] at hi)) fun e => by rw [frame.engine]; exact he e

theorem State.ValidityLaw.commit {s : State} (h : s.ValidityLaw) (e : Entry) : (s.commit e).ValidityLaw :=
  h.of_records (fun _ => rfl) (fun _ hi => .inl hi) fun _ he => he

theorem State.ValidityLaw.endDrain {s : State} (h : s.ValidityLaw) : s.endDrain.ValidityLaw := by
  obtain ⟨_, _, hdrain⟩ := s.validityLaw_iff.mp h
  rcases s.endDrain_cases with e | ⟨x, k, r, hx, _, hc, e⟩ | ⟨x, n, _, _, _, e⟩ <;> rw [e]
  · exact h
  · have idle : State.ValidityLaw { s with engine := .idle } := h.of_records (fun _ => rfl) (fun _ hi => .inl hi) fun _ he => by cases he
    refine (idle.applyRecord (fun ha => ?_) fun _ he => by cases he).commit x
    rcases hc with ⟨q, hq, rfl⟩ | ⟨_, rfl⟩
    · exact hdrain x k q hx hq
    · exact absurd ha (by simp [SlotRecord.rest])
  · exact h.of_records (fun _ => rfl) (fun _ hi => .inl hi.of_askRead) fun _ he => by cases he

theorem State.ValidityLaw.afterOff {s : State} (h : s.ValidityLaw) : s.afterOff.ValidityLaw :=
  h.endDrain.airFrame (State.airFrame_closeIfOff _)

/-- A write of one slot's record that moves nothing of its place leaves the law to an engine in IDLE. -/
theorem State.ValidityLaw.modSlot {s : State} (h : s.ValidityLaw) (he : ∀ e, s.engine ≠ .draining e) (k : SlotIx) {f : Slot → Slot}
    (hf : (s.slot k).record.SamePlace (f (s.slot k)).record) : (s.modSlot k f).ValidityLaw := by
  obtain ⟨hplan, himages, _⟩ := s.validityLaw_iff.mp h
  refine State.validityLaw_of_still (PlanValid.of_samePlace hplan fun j => ?_) himages he
  rw [State.slot_modSlot]
  split
  · rename_i hj
    rw [hj]
    exact hf
  · exact .refl _

theorem State.testChange_assign {s : State} {k : SlotIx} {r : SlotRecord} (h : s.testChange (.assignSlot k r) = none) :
    widthKnown r.width = true ∧ bandTest r = true ∧ conflictTest k r s = true := by
  simp only [State.testChange] at h
  split at h
  · simp at h
  · split at h
    · simp at h
    · split at h
      · simp at h
      · simp_all

theorem State.ValidityLaw.takeSlotChange {s : State} (h : s.ValidityLaw) (hi : s.engine = .idle) {e : Entry} {k : SlotIx}
    {r : SlotRecord} (hr : r.assigned = true → widthKnown r.width = true ∧ bandTest r = true ∧ conflictTest k r s = true)
    (he : ∀ j q, e.change = .assignSlot j q → widthKnown q.width = true ∧ bandTest q = true ∧ conflictTest j q s = true) :
    (s.takeSlotChange e k r).ValidityLaw := by
  obtain ⟨hplan, himages, _⟩ := s.validityLaw_iff.mp h
  have idle : ∀ x, s.engine ≠ .draining x := fun x => by simp [hi]
  unfold State.takeSlotChange
  split
  · have records : ∀ j, ((({ s with engine := .draining e } : State).modSlot k fun x => { x with retuning := true }).slot j).record =
        (s.slot j).record := fun j => by
      rw [State.slot_modSlot]
      split
      · rename_i hj
        rw [hj]; rfl
      · rfl
    have marked : State.ValidityLaw (({ s with engine := .draining e } : State).modSlot k fun x => { x with retuning := true }) := by
      refine (State.validityLaw_iff _).mpr ⟨hplan.of_records records, himages, fun x j q hx hq => ?_⟩
      obtain rfl : e = x := by simpa using hx
      rw [conflictTest_congr records]
      exact he j q hq
    exact (marked.airFrame (State.airFrame_reformSlot _ k)).afterOff
  · exact (h.applyRecord hr idle).commit e

theorem State.ValidityLaw.carryOut {s : State} (h : s.ValidityLaw) (hi : s.engine = .idle) {e : Entry}
    (ht : s.testChange e.change = none) : (s.carryOut e).ValidityLaw := by
  have idle : ∀ x, s.engine ≠ .draining x := fun x => by simp [hi]
  unfold State.carryOut
  split
  · rename_i k r hc
    rw [hc] at ht
    refine h.takeSlotChange hi (fun _ => State.testChange_assign (s := s) (k := k) (r := r) ht) fun j q hq => ?_
    rw [hc] at hq
    obtain ⟨rfl, rfl⟩ : k = j ∧ r = q := by simpa using hq
    exact State.testChange_assign ht
  · rename_i k hc
    exact h.takeSlotChange hi (fun ha => absurd ha (by simp [SlotRecord.rest])) fun j q hq => by simp [hc] at hq
  · exact ((h.modSlot idle _ ⟨rfl, rfl, rfl, rfl, rfl⟩).airFrame (State.airFrame_govern _)).commit e
  · exact (h.modSlot idle _ ⟨rfl, rfl, rfl, rfl, rfl⟩).commit e
  · rename_i k v _
    refine State.ValidityLaw.commit ?_ e
    have written : (s.modSlot k fun x => { x with record := { x.record with enabled := v } }).ValidityLaw :=
      h.modSlot idle k ⟨rfl, rfl, rfl, rfl, rfl⟩
    have enabled := written.airFrame ((State.airFrame_reformSlot _ k).trans (State.airFrame_formQuiet _))
    unfold State.applyEnable
    simp only
    split
    · exact enabled.airFrame (State.airFrame_wake _)
    · exact enabled
  · refine State.ValidityLaw.commit ?_ e
    unfold State.applyParams
    refine State.ValidityLaw.airFrame ?_ ((State.airFrame_govern _).trans (State.airFrame_measureQuiet _))
    exact h.of_records (fun _ => rfl) (fun _ hh => .inl hh) fun _ hx => hx
  · refine (State.ValidityLaw.airFrame ?_ (State.airFrame_txEnableWritten _ _)).commit e
    exact h.of_records (fun _ => rfl) (fun _ hh => .inl hh) fun _ hx => hx
  · rename_i n hc
    unfold State.takeLoad
    refine (State.ValidityLaw.airFrame ?_ (State.airFrame_reformAll _)).afterOff
    obtain ⟨hplan, himages, _⟩ := s.validityLaw_iff.mp h
    refine (State.validityLaw_iff _).mpr ⟨hplan.of_records fun j => by simp, himages, fun x j q hx hq => ?_⟩
    obtain rfl : e = x := by simpa using hx
    simp [hc] at hq
  · refine State.ValidityLaw.commit ?_ e
    have cleared : State.ValidityLaw (({ s with out := { s.out with trips := [] } } : State).setTx .offAir) :=
      (h.planFrame (s.planFrame_out _)).airFrame (State.airFrame_setTx _ _)
    unfold State.applyClearLockout
    simp only
    split
    · exact cleared.airFrame (State.airFrame_enterWarmUp _)
    · exact cleared

theorem State.ValidityLaw.takeKind {s : State} (h : s.ValidityLaw) (kind : ChangeKind) : (s.takeKind kind).ValidityLaw := by
  rcases s.takeKind_cases kind with e | ⟨x, _, _, ⟨code, e⟩ | ⟨⟨hi, _, _, ht⟩, e⟩⟩ <;> rw [e]
  · exact h
  · exact h.of_records (fun _ => rfl) (fun _ hi => .inl hi) fun _ he => he
  · have taken : (s.without x).ValidityLaw := h.of_records (fun _ => rfl) (fun _ hi => .inl hi) fun _ he => he
    exact taken.carryOut hi (e := x.clamped) ht

theorem State.ValidityLaw.endBoot {s : State} (h : s.ValidityLaw) (r : BootResult) : (s.endBoot r).ValidityLaw := by
  unfold State.endBoot
  refine (State.ValidityLaw.planFrame ?_ (State.planFrame_latchBoth _ _)).airFrame (State.airFrame_txEnableWritten _ _)
  exact h.of_records (fun _ => rfl) (fun _ hi => .inl (hi.of_same (fun _ => rfl) rfl)) fun _ he => by cases he

theorem State.ValidityLaw.endOfReset {s : State} (h : s.ValidityLaw) (hi lo : Bool) : (s.endOfReset hi lo).ValidityLaw := by
  have released : (s.released hi lo).ValidityLaw :=
    h.of_records (State.released_slot_record s hi lo) (fun _ hh => .inl (by simpa using hh)) fun e he => by simpa using he
  rw [State.endOfReset_eq]
  rcases (s.released hi lo).bootDecision_cases with ⟨_, e⟩ | ⟨_, _, _, e⟩ | ⟨_, _, _, e⟩ | ⟨_, _, _, _, e⟩ <;> rw [e]
  · exact released.endBoot _
  · exact released.endBoot _
  · exact released.endBoot _
  · exact released.of_records (fun _ => rfl) (fun _ hh => .inl hh.of_askRead) fun _ he => he

/-- A load of a valid image makes the plan that image (R49). -/
theorem State.ValidityLaw.loadImage {s : State} (h : s.ValidityLaw) {img : PlanImage} (hv : img.Valid) :
    (s.loadImage img).ValidityLaw := by
  obtain ⟨_, himages, _⟩ := s.validityLaw_iff.mp h
  obtain ⟨_, hengine, _, _, hstore, _⟩ := s.loadImage_rest img
  refine State.validityLaw_of_still ?_ (fun x hx => himages x (by rwa [hstore] at hx)) fun e => by simp [hengine]
  have : (fun k => ((s.loadImage img).slot k).record) = fun k : SlotIx => img.records[k.val] :=
    funext fun k => (s.loadImage_slot img k).1.1
  rw [State.PlanLaw, this]
  exact hv

theorem State.ValidityLaw.endRead {s : State} (h : s.ValidityLaw) : s.endRead.ValidityLaw := by
  obtain ⟨_, himages, _⟩ := s.validityLaw_iff.mp h
  have ended : s.readEnded.ValidityLaw := h.of_records (fun _ => rfl) (fun _ hh => .inl hh.of_endRead) fun _ he => he
  rcases s.endRead_cases with e | ⟨n, img, x, _, hp, _, e⟩ | ⟨n, img, _, hp, _, e⟩ <;> rw [e]
  · exact h
  · exact ((ended.loadImage (himages img (.inl ⟨n, hp⟩))).commit x).airFrame (State.airFrame_txEnableWritten _ _)
  · unfold State.completeBoot
    refine State.ValidityLaw.endBoot ?_ _
    exact (ended.loadImage (himages img (.inl ⟨n, hp⟩))).of_records (fun _ => rfl) (fun _ hh => .inl hh) fun _ he => he

theorem State.ValidityLaw.act {s : State} (h : s.ValidityLaw) (p : Port) (c : Command) (w : List Byte) :
    (s.act p c w).2.ValidityLaw := by
  have frame := s.deskFrame_act p c w
  exact h.of_records (fun k => by rw [frame.slot]) (fun _ hh => State.holds_act hh) fun e he => by rwa [frame.engine] at he

theorem State.ValidityLaw.purge {s : State} (h : s.ValidityLaw) (p : Port) : (s.purge p).ValidityLaw := by
  have frame := s.deskFrame_purge p
  exact h.of_records (fun k => by rw [frame.slot]) (fun _ hh => .inl (by rwa [State.purge_store] at hh)) fun e he => by
    rwa [frame.engine] at he

theorem State.ValidityLaw.storeMove {s t : State} (h : s.ValidityLaw) (m : s.StoreMove t)
    (hs : ∀ img, t.store.Holds img → s.store.Holds img) : t.ValidityLaw := by
  rw [m]
  exact h.of_records (fun _ => rfl) (fun img hh => .inl (hs img hh)) fun _ he => he

theorem State.ValidityLaw.deviceReset {s : State} (h : s.ValidityLaw) : s.deviceReset.ValidityLaw := by
  obtain ⟨_, himages, _⟩ := s.validityLaw_iff.mp h
  refine State.validityLaw_of_still ⟨fun k => ?_, fun i j _ hi => ?_⟩ (fun img hh => himages img hh.of_cut) fun _ he => by cases he
  · simp [SlotRecord.Fits, Slot.rest, SlotRecord.rest]
  · simp [Slot.rest, SlotRecord.rest] at hi

theorem exec_keeps_validityLaw {c : Instr} {s t : State} (h : exec c s = .next t) : s.ValidityLaw → t.ValidityLaw := by
  by_cases hc : c = .deviceReset
  · subst hc
    obtain rfl := Host.Outcome.next.inj h
    exact State.ValidityLaw.deviceReset
  · exact exec_plan_cases (P := fun s t => s.ValidityLaw → t.ValidityLaw)
      (still := fun _ _ hf hs => hs.planFrame hf) (afterOff := fun _ _ hf hs => (hs.planFrame hf).afterOff)
      (desk := fun _ _ m hs =>
        m.keeps (fun _ _ _ hs => hs.of_records (fun _ => rfl) (fun _ hh => .inl hh) fun _ he => he) (fun _ p c w hs => hs.act p c w)
          (fun _ p hs => hs.purge p) hs)
      (endOfReset := fun _ hi lo _ hs => hs.endOfReset hi lo) (taking := fun _ kind hs => hs.takeKind kind)
      (endErasing := fun s hs => hs.storeMove s.storeMove_endErasing fun _ => State.holds_endErasing)
      (endProgramming := fun s v hs => hs.storeMove (s.storeMove_endProgramming v) fun _ => State.holds_endProgramming)
      (endErase := fun s hs => hs.storeMove s.storeMove_endErase fun _ => State.holds_endErase)
      (endBootWrite := fun s hs => hs.storeMove s.storeMove_endBootWrite fun _ => State.holds_endBootWrite)
      (endRead := fun _ hs => hs.endRead) hc h

theorem State.ValidityLaw.bookkeeping {s : State} (h : s.ValidityLaw) (q : List Instr) (n : Nat) :
    ({ s with pending := q, fresh := n } : State).ValidityLaw :=
  h.of_records (fun _ => rfl) (fun _ hh => .inl hh) fun _ he => he

theorem State.ValidityLaw.tick {s : State} (h : s.ValidityLaw) : s.tick.ValidityLaw := by
  have records : ∀ k, (s.tick.slot k).record = (s.slot k).record := fun k => by rw [State.slot_tick]
  have images : ∀ img, s.tick.store.Holds img → s.store.Holds img := fun img hh => by
    rw [State.tick_store] at hh
    exact hh
  have draining : ∀ e, s.tick.engine = .draining e → s.engine = .draining e := fun e he => by rwa [State.tick_engine] at he
  exact h.of_records records (fun img hh => .inl (images img hh)) draining

/-- Settles O10: a record is written only where its tests against the plan that stands are passed, and a loaded image was written from
a valid plan. -/
theorem everyStepKeepsThePlanValid : Obligations.EveryStepKeepsThePlanValid := by
  unfold Obligations.EveryStepKeepsThePlanValid
  intro s t h hstep
  exact step_keeps (P := State.ValidityLaw) (fun _ _ _ => exec_keeps_validityLaw) (fun _ q n hs => hs.bookkeeping q n)
    (fun _ hs => hs.tick) hstep h

end Sys2Proof.Machine
end

section
/-! PROOF. What does not stir: an EMPTY slot stays at rest, an absent path stays at rest, and a slot that is marked or EMPTY never turns
up, through every operation that applies no record. -/

namespace Sys2Proof.Machine

/-! ## The moves of the Output Controller, the Ramp Controller and the Level Governor -/

/-- What the operations on the air are composed of. -/
inductive State.AirMove : State → State → Prop
  | refl (s : State) : s.AirMove s
  | setTx (s : State) (t : TxState) : s.AirMove (s.setTx t)
  | formQuiet (s : State) : s.AirMove s.formQuiet
  | govern (s : State) : s.AirMove s.govern
  | reformSlot (s : State) (k : SlotIx) : s.AirMove (s.reformSlot k)
  | reformAll (s : State) : s.AirMove s.reformAll
  | trans {s t u : State} (h : s.AirMove t) (g : t.AirMove u) : s.AirMove u

theorem State.airMove_enterWarmUp (s : State) : s.AirMove s.enterWarmUp := by
  unfold State.enterWarmUp
  split
  · exact .setTx s _
  · exact .setTx s _

theorem State.airMove_enterOnAir (s : State) : s.AirMove s.enterOnAir := ((AirMove.setTx s _).trans (.reformAll _)).trans (.formQuiet _)

theorem State.airMove_closeIfOff (s : State) : s.AirMove s.closeIfOff := by
  unfold State.closeIfOff
  split
  · split
    · exact .setTx s _
    · exact .refl s
  · exact .refl s

theorem State.airMove_enterClosing (s : State) (t : Target) : s.AirMove (s.enterClosing t) :=
  ((AirMove.setTx s _).trans (.reformAll _)).trans (State.airMove_closeIfOff _)

theorem State.airMove_txEnabled (s : State) : s.AirMove s.txEnabled := by
  unfold State.txEnabled
  split
  · exact s.airMove_enterWarmUp
  · exact s.airMove_enterOnAir
  · exact .refl s

theorem State.airMove_txDisabled (s : State) : s.AirMove s.txDisabled := by
  unfold State.txDisabled
  split
  · exact .setTx s _
  · exact s.airMove_enterClosing _
  · exact .setTx s _
  · exact .setTx s _
  · exact .refl s

theorem State.airMove_txEnableWritten (s : State) (v : Bool) : s.AirMove (s.txEnableWritten v) := by
  unfold State.txEnableWritten
  split
  · exact .refl s
  · split
    · exact s.airMove_txEnabled
    · exact s.airMove_txDisabled

theorem State.airMove_wake (s : State) : s.AirMove s.wake := by
  unfold State.wake
  split
  · exact s.airMove_enterWarmUp
  · exact s.airMove_enterOnAir
  · exact .refl s

theorem State.airMove_quietExpired (s : State) : s.AirMove s.quietExpired := by
  unfold State.quietExpired
  split
  · exact s.airMove_enterClosing _
  · exact .refl s

theorem State.airMove_measureQuiet (s : State) : s.AirMove s.measureQuiet := by
  unfold State.measureQuiet
  split
  · split
    · exact (AirMove.formQuiet s).trans (State.airMove_quietExpired _)
    · exact .formQuiet s
  · exact .formQuiet s

theorem State.airMove_sourceMoved (s : State) (k : SlotIx) : s.AirMove (s.sourceMoved k) := by
  have formed : s.AirMove (s.reformSlot k).formQuiet := (AirMove.reformSlot s k).trans (.formQuiet _)
  unfold State.sourceMoved
  simp only
  split
  · exact formed.trans (State.airMove_wake _)
  · exact formed

/-! ## The frame of the slots -/

/-- A slot whose on-demand condition is false whatever its source: it bears a retuning mark, or it is EMPTY (R88). -/
def Slot.Shut (x : Slot) : Prop := x.retuning = true ∨ x.record.assigned = false

theorem Slot.Shut.unwanted {x : Slot} (h : x.Shut) : x.wanted = false := by
  rcases h with h | h <;> simp [Slot.wanted, h]

theorem State.onDemand_of_shut {s : State} {k : SlotIx} (h : (s.slot k).Shut) : s.onDemand k = false := by
  simp [State.onDemand, h.unwanted]

/-- A slot that is OFF or on its way there. -/
def Slot.Low (x : Slot) : Prop := x.ramp.state = .off ∨ x.ramp.state = .rampDown

theorem Slot.Low.congr {x y : Slot} (h : x.Low) (e : y.ramp.state = x.ramp.state) : y.Low := by
  rw [Slot.Low, e]
  exact h

/-- A ramp that is OFF or on its way there stays where it is when its on-demand condition is false (R91). -/
theorem Slot.Low.react {x : Slot} (h : x.Low) (rs : Nat) : x.ramp.react false rs = x.ramp := by
  rcases h with h | h <;> simp [Ramp.react, h]

/-- What applies no record leaves to each slot: its record, words and mark; the path that is not there; rest, where it is at rest;
and OFF or the way there, where it is marked or EMPTY. -/
structure Slot.ShutFrame (x y : Slot) : Prop where
  record : y.record = x.record
  words : y.words = x.words
  retuning : y.retuning = x.retuning
  fallback : x.record.fallback = none → y.fallback = x.fallback
  low : x.Shut → x.Low → y.Low
  off : x.Shut → x.ramp.state = .off → y.ramp.state = .off
  rest : x = Slot.rest → y = Slot.rest

namespace Slot.ShutFrame

theorem refl (x : Slot) : x.ShutFrame x := ⟨rfl, rfl, rfl, fun _ => rfl, fun _ h => h, fun _ h => h, id⟩

theorem shut {x y : Slot} (h : x.ShutFrame y) (g : x.Shut) : y.Shut := by
  rw [Slot.Shut, h.retuning, h.record]
  exact g

theorem trans {x y z : Slot} (h : x.ShutFrame y) (g : y.ShutFrame z) : x.ShutFrame z where
  record := g.record.trans h.record
  words := g.words.trans h.words
  retuning := g.retuning.trans h.retuning
  fallback e := (g.fallback (h.record ▸ e)).trans (h.fallback e)
  low e f := g.low (h.shut e) (h.low e f)
  off e f := g.off (h.shut e) (h.off e f)
  rest e := g.rest (h.rest e)

end Slot.ShutFrame

/-- Every slot keeps its frame. -/
def State.ShutFrame (s t : State) : Prop := ∀ k, (s.slot k).ShutFrame (t.slot k)

theorem State.ShutFrame.refl (s : State) : s.ShutFrame s := fun _ => .refl _

theorem State.ShutFrame.trans {s t u : State} (h : s.ShutFrame t) (g : t.ShutFrame u) : s.ShutFrame u := fun k => (h k).trans (g k)

theorem State.shutFrame_of_slots {s t : State} (h : t.slots = s.slots) : s.ShutFrame t := fun k => by
  rw [State.slot_congr h]
  exact .refl _

/-- A slot at rest but for its grant and its share. -/
def Slot.Bare (x : Slot) : Prop := ∃ grant share, x = { Slot.rest with grant := grant, share := share }

theorem Slot.bare_rest : Slot.rest.Bare := ⟨0, 0, rfl⟩

/-- An evaluation of the governor leaves to a slot that is OFF the grant 0 and the share 0 (R104, R111). -/
theorem State.rest_govern {s : State} {k : SlotIx} (h : (s.slot k).Bare) : s.govern.slot k = Slot.rest := by
  obtain ⟨g, sh, h⟩ := h
  have zero : grantOf s.bEff s.demand (s.slot k) = 0 := grantOf_off (by rw [h]; rfl)
  rw [State.slot_govern, zero, h]
  simp [shareOf, Slot.rest]

theorem State.bare_reactAll {s : State} {k : SlotIx} (h : (s.slot k).Bare) : (s.reactAll.slot k).Bare := by
  obtain ⟨g, sh, h⟩ := h
  have shut : (s.slot k).Shut := by rw [h]; exact .inr rfl
  rw [State.slot_reactAll, State.onDemand_of_shut shut, h]
  exact ⟨g, sh, rfl⟩

theorem State.bare_reactSlot {s : State} {j k : SlotIx} (h : (s.slot j).Bare) : ((s.reactSlot k).slot j).Bare := by
  rw [State.slot_reactSlot]
  split
  · rename_i hj
    subst hj
    obtain ⟨g, sh, h⟩ := h
    have shut : (s.slot j).Shut := by rw [h]; exact .inr rfl
    rw [State.onDemand_of_shut shut, h]
    exact ⟨g, sh, rfl⟩
  · exact h

theorem State.rest_reformAll {s : State} {k : SlotIx} (h : (s.slot k).Bare) : s.reformAll.slot k = Slot.rest :=
  State.rest_govern (State.bare_reactAll h)

theorem State.rest_reformSlot {s : State} {j k : SlotIx} (h : (s.slot j).Bare) : (s.reformSlot k).slot j = Slot.rest :=
  State.rest_govern (State.bare_reactSlot h)

theorem State.shutFrame_govern (s : State) : s.ShutFrame s.govern := fun k =>
  { record := by simp, words := by simp, retuning := by simp, fallback := fun _ => by simp
    low := fun _ h => h.congr (by simp), off := fun _ h => by simpa using h
    rest := fun h => State.rest_govern (h ▸ Slot.bare_rest) }

theorem State.shutFrame_reformAll (s : State) : s.ShutFrame s.reformAll := fun k => by
  have still : (s.slot k).Shut → (s.slot k).Low → (s.reformAll.slot k).ramp = (s.slot k).ramp := fun hs hl => by
    rw [State.reformAll_slot_ramp, State.onDemand_of_shut hs, hl.react]
  exact
    { record := by simp, words := by simp, retuning := by simp, fallback := fun _ => by simp
      low := fun hs h => h.congr (by rw [still hs h]), off := fun hs h => by rw [still hs (.inl h), h]
      rest := fun h => State.rest_reformAll (h ▸ Slot.bare_rest) }

theorem State.shutFrame_reformSlot (s : State) (k : SlotIx) : s.ShutFrame (s.reformSlot k) := fun j => by
  have still : (s.slot j).Shut → (s.slot j).Low → ((s.reformSlot k).slot j).ramp = (s.slot j).ramp := fun hs hl => by
    rw [State.reformSlot_slot_ramp]
    split
    · rename_i hj
      subst hj
      rw [State.onDemand_of_shut hs, hl.react]
    · rfl
  exact
    { record := by simp, words := by simp, retuning := by simp, fallback := fun _ => by simp
      low := fun hs h => h.congr (by rw [still hs h]), off := fun hs h => by rw [still hs (.inl h), h]
      rest := fun h => State.rest_reformSlot (h ▸ Slot.bare_rest) }

theorem State.AirMove.shutFrame {s t : State} (h : s.AirMove t) : s.ShutFrame t := by
  induction h with
  | refl s => exact .refl s
  | setTx s t => exact State.shutFrame_of_slots (by simp)
  | formQuiet s => exact State.shutFrame_of_slots (by simp)
  | govern s => exact s.shutFrame_govern
  | reformSlot s k => exact s.shutFrame_reformSlot k
  | reformAll s => exact s.shutFrame_reformAll
  | trans _ _ h g => exact h.trans g

/-- A marked or EMPTY slot that is on its way down is still on its way down. -/
def State.DownKept (s t : State) : Prop := ∀ k, (s.slot k).Shut → (s.slot k).ramp.state = .rampDown → (t.slot k).ramp.state = .rampDown

theorem State.AirMove.downKept {s t : State} (h : s.AirMove t) : s.DownKept t := by
  induction h with
  | refl s => exact fun _ _ h => h
  | setTx s t => exact fun _ _ h => h
  | formQuiet s => exact fun _ _ h => h
  | govern s => exact fun k _ h => by simpa using h
  | reformSlot s k =>
    intro j hs h
    rw [State.reformSlot_slot_ramp]
    split
    · rename_i hj
      subst hj
      rw [State.onDemand_of_shut hs, Slot.Low.react (.inr h), h]
    · exact h
  | reformAll s => exact fun k hs h => by rw [State.reformAll_slot_ramp, State.onDemand_of_shut hs, Slot.Low.react (.inr h), h]
  | @trans s t u h₁ _ h g => exact fun k hs hd => g k ((h₁.shutFrame k).shut hs) (h k hs hd)

end Sys2Proof.Machine
end

section
/-! PROOF. The commands that apply no record and begin no drain, and the cases that a law of the marks, the boot and what rests comes
down to by them. -/

namespace Sys2Proof.Machine

/-! ## Commands that leave the plan, the marks and what rests -/

/-- Nothing of the plan, the Plan Engine and the store has moved; no slot has left its rest, its mark or its way down; and with every
slot at rest the transmitter is still OFF_AIR where it was. -/
structure State.Still (s t : State) : Prop where
  plan : s.PlanFrame t
  shut : s.ShutFrame t
  down : s.DownKept t
  offAir : s.out.state = .offAir → (∀ k, s.slot k = Slot.rest) → t.out.state = .offAir

namespace State.Still

theorem refl (s : State) : s.Still s := ⟨.refl s, .refl s, fun _ _ h => h, fun h _ => h⟩

theorem trans {s t u : State} (h : s.Still t) (g : t.Still u) : s.Still u where
  plan := h.plan.trans g.plan
  shut := h.shut.trans g.shut
  down k hs hd := g.down k ((h.shut k).shut hs) (h.down k hs hd)
  offAir ho hr := g.offAir (h.offAir ho hr) fun k => (h.shut k).rest (hr k)

/-- A move that leaves the slots and the transmitter state. -/
theorem of_slots {s t : State} (hp : s.PlanFrame t) (hs : t.slots = s.slots) (ho : t.out.state = s.out.state) : s.Still t :=
  ⟨hp, State.shutFrame_of_slots hs, fun k _ hd => by rwa [State.slot_congr hs], fun h _ => ho.trans h⟩

theorem of_air {s t : State} (h : s.AirMove t) (hp : s.PlanFrame t) (ho : s.out.state = .offAir → t.out.state = .offAir) : s.Still t :=
  ⟨hp, h.shutFrame, h.downKept, fun e _ => ho e⟩

end State.Still

theorem State.shutFrame_putSlot {s : State} {k : SlotIx} {x : Slot} (h : (s.slot k).ShutFrame x) : s.ShutFrame (s.putSlot k x) :=
  fun j => by
    rw [State.slot_putSlot]
    split
    · rename_i hj
      rwa [hj]
    · exact .refl _

theorem State.downKept_putSlot {s : State} {k : SlotIx} {x : Slot} (h : x.ramp = (s.slot k).ramp) : s.DownKept (s.putSlot k x) :=
  fun j _ hd => by rwa [State.slot_put_ramp s j k x h]

/-- A new selection moves neither a mark nor a record, and a ramp only by its on-demand condition. -/
theorem State.still_applySelection {s : State} {k : SlotIx} (h : s.slot k ≠ Slot.rest) (v : Selector) :
    s.Still (s.applySelection k v) := by
  have selected : (s.slot k).ShutFrame ((s.slot k).select v) :=
    ⟨rfl, rfl, rfl, fun _ => rfl, fun _ h => h, fun _ h => h, fun e => absurd e h⟩
  have put : s.ShutFrame (s.putSlot k ((s.slot k).select v)) := State.shutFrame_putSlot selected
  have downPut : s.DownKept (s.putSlot k ((s.slot k).select v)) := State.downKept_putSlot rfl
  refine ⟨(s.feedFrame_applySelection k v).planFrame, ?_, ?_, fun _ hr => absurd (hr k) h⟩
  · unfold State.applySelection
    simp only
    split
    · exact put
    · split
      · exact put.trans ((State.shutFrame_of_slots (by simp)).trans (State.airMove_sourceMoved _ k).shutFrame)
      · exact put.trans (State.shutFrame_of_slots (by simp))
  · have latched : s.DownKept ((s.putSlot k ((s.slot k).select v)).latchSource k) := downPut
    unfold State.applySelection
    simp only
    split
    · exact downPut
    · split
      · exact fun j hs hd => (State.airMove_sourceMoved _ k).downKept j ((put j).shut hs) (latched j hs hd)
      · exact latched

theorem State.still_notice {s : State} {k : SlotIx} (h : s.slot k ≠ Slot.rest) (forced : Bool) : s.Still (s.notice k forced) :=
  State.still_applySelection h _

theorem Slot.ne_rest_of_assigned {x : Slot} (h : x.record.assigned = true) : x ≠ Slot.rest := by
  rintro rfl
  simp [Slot.rest, SlotRecord.rest] at h

/-- The quality of a path that is there moves no slot from its rest. -/
theorem State.still_putPaths {s : State} {k : SlotIx} {x : Slot} (ha : (s.slot k).record.assigned = true)
    (hr : x.record = (s.slot k).record) (hw : x.words = (s.slot k).words) (hm : x.retuning = (s.slot k).retuning)
    (hp : x.ramp = (s.slot k).ramp) (hf : (s.slot k).record.fallback = none → x.fallback = (s.slot k).fallback) :
    s.Still (s.putSlot k x) :=
  ⟨s.planFrame_putSlot k hr hw hm,
    State.shutFrame_putSlot
      ⟨hr, hw, hm, hf, fun _ h => h.congr (by rw [hp]), fun _ h => by rw [hp, h], fun e => absurd e (Slot.ne_rest_of_assigned ha)⟩,
    State.downKept_putSlot hp, fun h _ => h⟩

theorem State.still_measure (s : State) (k : SlotIx) (n : PathName) (d : Int) : s.Still (s.measure k n d) := by
  cases hv : s.measured k n d with
  | none => rw [State.measure_none hv]; exact .refl s
  | some v =>
    obtain ⟨path, hpath, ha⟩ : ∃ path, (s.slot k).record.path n = some path ∧ (s.slot k).record.assigned = true := by
      unfold State.measured at hv
      split at hv
      · simp at hv
      · rename_i path hp
        exact ⟨path, hp, (Option.ite_none_right_eq_some.mp hv).1⟩
    have put : s.Still (s.putSlot k ((s.slot k).putPath n v)) :=
      State.still_putPaths ha (by simp) (by simp) (by simp) (by simp) fun hf => by
        cases n with
        | primary => rfl
        | fallback => simp [SlotRecord.path, hf] at hpath
    rw [State.measure_some hv]
    split
    · exact put
    · exact put.trans (State.still_notice (Slot.ne_rest_of_assigned (by simpa using ha)) _)

theorem State.still_measureSlot (s : State) (k : SlotIx) (d : Delivered) : s.Still (s.measureSlot k d) := by
  unfold State.measureSlot
  split
  · exact (s.still_measure k _ _).trans (State.still_measure _ k _ _)
  · exact (s.still_measure k _ _).trans (State.still_measure _ k _ _)

theorem State.still_monitor (s : State) (v : Levels) : s.Still (s.monitor v) := by
  have started : s.Still { s with monitorIn := 10 } := .of_slots
    ⟨rfl, rfl, rfl, rfl, rfl, rfl, fun _ => rfl, fun _ => rfl, fun _ => rfl, fun _ => .refl _⟩ rfl rfl
  exact State.sweep_keeps (P := fun t => s.Still t) (fun t k h => h.trans (t.still_measureSlot k _)) _ _ started

theorem Slot.pathOn_assigned {x : Slot} {n : PathName} {f : Feed} (h : x.pathOn n f = true) : x.record.assigned = true :=
  (Bool.and_eq_true_iff.mp h).1

theorem State.still_unlockSlot (s : State) (f : Feed) (k : SlotIx) : s.Still (s.unlockSlot f k) := by
  rw [State.unlockSlot_eq]
  split
  · rename_i h
    have ha : (s.slot k).record.assigned = true := by
      rcases Bool.or_eq_true_iff.mp h with h | h <;> exact Slot.pathOn_assigned h
    have put : s.Still (s.putSlot k ((s.slot k).unlocked f)) :=
      State.still_putPaths ha (Slot.unlocked_record _ f) (Slot.unlocked_words _ f) (Slot.unlocked_retuning _ f)
        (Slot.unlocked_ramp _ f) fun hf => by
          have := Slot.unlocked_path (s.slot k) f .fallback
          rwa [if_neg (by simp [Slot.pathOn, SlotRecord.path, hf])] at this
    exact put.trans (State.still_notice (Slot.ne_rest_of_assigned (by rw [State.slot_putSlot_self, Slot.unlocked_record]; exact ha)) _)
  · exact .refl s

theorem State.still_moveReceiver (s : State) (f : Feed) (r : Receiver) : s.Still (s.moveReceiver f r) := by
  obtain ⟨hslots, hout, _, _⟩ := s.moveReceiver_slots f r
  exact .of_slots (s.planFrame_moveReceiver f r) hslots (by rw [hout])

theorem State.still_lostMarker (s : State) (f : Feed) : s.Still (s.lostMarker f) := by
  unfold State.lostMarker
  simp only
  split
  · exact s.still_moveReceiver f _
  · exact State.sweep_keeps (P := fun t => s.Still t) (fun t k h => h.trans (t.still_unlockSlot f k)) _ _ (s.still_moveReceiver f _)

/-- A slot at rest has no switch pending, so its hold-off expiry hands nothing on. -/
theorem State.still_expireHoldOff (s : State) (k : SlotIx) : s.Still (s.expireHoldOff k) := by
  unfold State.expireHoldOff
  simp only
  split
  · rename_i n hp hn
    exact State.still_applySelection (fun e => by rw [e] at hp; simp [Slot.rest, Selector.rest] at hp) _
  · exact ⟨s.planFrame_putSlot k rfl rfl rfl,
      State.shutFrame_putSlot ⟨rfl, rfl, rfl, fun _ => rfl, fun _ h => h, fun _ h => h, fun e => by rw [e]; rfl⟩,
      State.downKept_putSlot rfl, fun h _ => h⟩

theorem State.still_enterOnAir {s : State} (h : s.out.state = .warmUp) : s.Still s.enterOnAir :=
  .of_air s.airMove_enterOnAir s.airFrame_enterOnAir.planFrame fun e => by simp [h] at e

theorem State.still_quietExpired (s : State) : s.Still s.quietExpired :=
  .of_air s.airMove_quietExpired s.airFrame_quietExpired.planFrame fun e => by
    rw [State.quietExpired, if_neg (by simp [e]), e]

theorem State.still_setHold (s : State) (p : Port) (v : Bool) : s.Still (s.setHold p v) := by
  have put : s.Still { s with out := { s.out with hold := s.out.hold.put p v } } := .of_slots (s.planFrame_out _) rfl rfl
  unfold State.setHold
  simp only
  split
  · exact put
  · exact put.trans (.of_air ((State.AirMove.reformAll _).trans (.formQuiet _))
      ((State.airFrame_reformAll _).trans (State.airFrame_formQuiet _)).planFrame fun e => by simpa using e)

theorem State.still_releaseUrgent (s : State) (p : Port) : s.Still (s.releaseUrgent p) :=
  .of_slots (s.planFrame_releaseUrgent p) rfl rfl

theorem State.still_silence (s : State) (p : Port) : s.Still (s.silence p) :=
  (State.Still.of_slots ((s.planFrame_modPort p ⟨rfl, rfl, rfl⟩).trans (State.planFrame_latch _ _ _)) rfl rfl).trans
    (State.still_setHold _ p false)

/-! ## Reports of OFF -/

/-- What a report of OFF finds: as `State.Still`, but that slots may have come to OFF. -/
structure State.Reported (s t : State) : Prop where
  plan : s.PlanFrame t
  shut : s.ShutFrame t
  ramps : s.RampLaw → t.RampLaw
  offAir : s.out.state = .offAir → (∀ k, s.slot k = Slot.rest) → t.out.state = .offAir

/-- The ramp of a slot moves by one step: it does not leave OFF, and on its way down it comes to OFF at last. -/
theorem Slot.shutFrame_advance (x : Slot) (rs : Nat) : x.ShutFrame { x with ramp := x.ramp.advance rs }.formShare where
  record := rfl
  words := rfl
  retuning := rfl
  fallback _ := rfl
  low _ h := by
    rcases h with h | h
    · exact .inl (by simp [Slot.formShare, Ramp.advance, h])
    · by_cases hs : 1 < x.ramp.step
      · exact .inr (by simp [Slot.formShare, Ramp.advance, h, hs])
      · exact .inl (by simp [Slot.formShare, Ramp.advance, h, hs, Ramp.rest])
  off _ h := by simp [Slot.formShare, Ramp.advance, h]
  rest h := by
    subst h
    simp [Slot.formShare, Ramp.advance, Slot.rest, Ramp.rest, shareOf]

theorem State.still_or_reported_rampStepEvent (s : State) (k : SlotIx) :
    s.Still (s.rampStepEvent k) ∨ ∃ u, s.Reported u ∧ s.rampStepEvent k = u.afterOff := by
  have plan : s.PlanFrame (s.modSlot k fun x => { x with ramp := x.ramp.advance s.wide.rampStep }.formShare) :=
    s.planFrame_putSlot k rfl rfl rfl
  have shut : s.ShutFrame (s.modSlot k fun x => { x with ramp := x.ramp.advance s.wide.rampStep }.formShare) :=
    State.shutFrame_putSlot (Slot.shutFrame_advance _ _)
  unfold State.rampStepEvent
  simp only
  split
  · refine .inr ⟨_, ⟨plan.trans (State.airFrame_govern _).planFrame, shut.trans (State.shutFrame_govern _), fun h => ?_, fun h _ => h⟩, rfl⟩
    exact (State.rampLaw_modSlot h (Ramp.advance_lawful (h k))).govern
  · rename_i hn
    refine .inl ⟨plan, shut, fun j hs hd => ?_, fun h _ => h⟩
    rcases (shut j).low hs (.inr hd) with off | down
    · by_cases hj : j = k
      · subst hj
        refine absurd ?_ hn
        simp only [Slot.transmitting, hd, off]
        rfl
      · rw [State.slot_modSlot_of_ne s hj, hd] at off
        simp at off
    · exact down

/-- A new level taken: PROTECTION shown, the effective budget and the grants formed (R103, R104, R117). -/
def State.levelTaken (s : State) (l : Protection) : State :=
  (({ s with out := { s.out with level := l } }).latchBoth .protection).formBudget.govern

theorem State.changeLevel_eq (s : State) (l : Protection) :
    s.changeLevel l =
      if l = .trip then (if s.out.state.amplifierOn then (s.levelTaken l).trip else s.levelTaken l)
      else if s.out.level = .trip ∧ s.out.state = .tripped then (s.levelTaken l).leaveTripped
      else s.levelTaken l := rfl

@[simp] theorem State.levelTaken_out (s : State) (l : Protection) : (s.levelTaken l).out = { s.out with level := l } := by
  simp [State.levelTaken]

theorem State.still_levelTaken (s : State) (l : Protection) : s.Still (s.levelTaken l) := by
  have written : s.Still { s with out := { s.out with level := l } } := .of_slots (s.planFrame_out _) rfl rfl
  refine written.trans ?_
  unfold State.levelTaken
  generalize ({ s with out := { s.out with level := l } } : State) = u
  refine (State.Still.of_slots (u.planFrame_latchBoth .protection) (by simp) (by simp)).trans ?_
  refine (State.Still.of_slots (State.planFrame_formBudget _) (by simp) (by simp)).trans ?_
  exact .of_air (.govern _) (State.airFrame_govern _).planFrame fun h => by simpa using h

/-- A trip before the report of OFF that ends it: recorded, the transmitter stopped, every slot forced OFF (R96, R129). -/
def State.tripForced (s : State) : State :=
  (({ s with out := { s.out with trips := s.out.trips ++ [s.now] } }).setTx
    (if 3 ≤ (s.out.trips ++ [s.now]).length then .lockout else .tripped)).forceOff

theorem State.trip_eq (s : State) : s.trip = s.tripForced.afterOff := rfl

theorem State.shutFrame_forceOff (s : State) : s.ShutFrame s.forceOff := fun k =>
  { record := by simp, words := by simp, retuning := by simp, fallback := fun _ => by simp
    low := fun _ _ => .inl (s.forceOff_off k), off := fun _ _ => s.forceOff_off k
    rest := fun h => State.rest_govern (by
      rw [State.slot_mapSlots, if_neg (by simp [h, Slot.transmitting, Slot.rest, Ramp.rest]), h]
      exact Slot.bare_rest) }

theorem State.planFrame_tripForced (s : State) : s.PlanFrame s.tripForced :=
  ((s.planFrame_out _).trans (State.airFrame_setTx _ _).planFrame).trans (State.airFrame_forceOff _).planFrame

theorem State.shutFrame_tripForced (s : State) : s.ShutFrame s.tripForced :=
  (State.shutFrame_of_slots (t := ({ s with out := { s.out with trips := s.out.trips ++ [s.now] } } : State).setTx _) rfl).trans
    (State.shutFrame_forceOff _)

theorem State.rampLaw_tripForced {s : State} (h : s.RampLaw) : s.tripForced.RampLaw :=
  (State.RampLaw.setTx (s := { s with out := { s.out with trips := s.out.trips ++ [s.now] } }) (h.same rfl) _).forceOff

/-- A change of level acts on the amplifier as a trip, on TRIPPED as its end, and otherwise on nothing but the budget (R117). -/
theorem State.still_or_reported_changeLevel (s : State) (l : Protection) :
    s.Still (s.changeLevel l) ∨ ∃ u, s.Reported u ∧ s.changeLevel l = u.afterOff := by
  have taken := s.still_levelTaken l
  have ramps : s.RampLaw → (s.levelTaken l).RampLaw := fun h =>
    (State.RampLaw.same (t := (({ s with out := { s.out with level := l } } : State).latchBoth .protection).formBudget) h rfl).govern
  rw [State.changeLevel_eq]
  split
  · split
    · rename_i hamp
      exact .inr ⟨_, ⟨taken.plan.trans (State.planFrame_tripForced _), taken.shut.trans (State.shutFrame_tripForced _),
        fun h => State.rampLaw_tripForced (ramps h), fun h _ => by simp [h, TxState.amplifierOn] at hamp⟩, State.trip_eq _⟩
    · exact .inl taken
  · split
    · rename_i htr
      have notOffAir : ∀ t : State, (s.levelTaken l).out.state = .offAir → t.out.state = .offAir := fun t h => by simp [htr.2] at h
      unfold State.leaveTripped
      split
      · exact .inl (taken.trans (.of_air (State.airMove_enterWarmUp _) (State.airFrame_enterWarmUp _).planFrame (notOffAir _)))
      · exact .inl (taken.trans (.of_air (.setTx _ _) (State.airFrame_setTx _ _).planFrame (notOffAir _)))
    · exact .inl taken

/-! ## What a command comes down to -/

/-- What a command comes down to for a property of the marks, the boot, the store and what rests. -/
theorem exec_still_cases {P : State → State → Prop} (still : ∀ s t, s.Still t → P s t)
    (reported : ∀ s u, s.Reported u → P s u.afterOff) (desk : ∀ s t, s.DeskMove t → P s t) (reset : ∀ s, P s s.deviceReset)
    (endOfReset : ∀ s hi lo, s.resetHeld = true → P s (s.endOfReset hi lo)) (taking : ∀ s kind, P s (s.takeKind kind))
    (endErasing : ∀ s, P s s.endErasing) (endProgramming : ∀ s v, P s (s.endProgramming v)) (endErase : ∀ s, P s s.endErase)
    (endBootWrite : ∀ s, P s s.endBootWrite) (endRead : ∀ s, P s s.endRead) {c : Instr} {s t : State}
    (h : exec c s = .next t) : P s t := by
  have report : ∀ {s t : State}, (s.Still t ∨ ∃ u, s.Reported u ∧ t = u.afterOff) → P s t := by
    rintro s t (hst | ⟨u, hu, rfl⟩)
    · exact still s t hst
    · exact reported s u hu
  have lines : ∀ (s : State) hi lo, s.Still (s.setLines hi lo) := fun s hi lo => .of_slots (s.planFrame_setLines hi lo) rfl rfl
  refine exec_cases (fun s => still s s (.refl s)) desk reset endOfReset (fun s f => still s _ (s.still_moveReceiver f _))
    (fun s f => still s _ (s.still_lostMarker f)) (fun s v => still s _ (s.still_monitor v))
    (fun s k _ => still s _ (s.still_expireHoldOff k)) (fun s k _ => report (s.still_or_reported_rampStepEvent k))
    (fun s hi lo => still s _ (lines s hi lo)) (fun s hi lo _ _ => ?_) (fun s hw => still s _ (State.still_enterOnAir hw))
    (fun s _ => still s _ s.still_quietExpired) (fun s => still s _ (.of_slots (s.planFrame_out _) rfl rfl)) taking endErasing
    endProgramming endErase endBootWrite endRead
    (fun s p v => still s _ ((s.still_releaseUrgent p).trans (State.still_setHold _ p v)))
    (fun s p => still s _ (s.still_silence p)) h
  refine report ?_
  rcases (s.setLines hi lo).still_or_reported_changeLevel (protectionOf hi lo) with hst | ⟨u, ⟨hp, hs, hr, ho⟩, e⟩
  · exact .inl ((lines s hi lo).trans hst)
  · exact .inr ⟨u, ⟨(lines s hi lo).plan.trans hp, (lines s hi lo).shut.trans hs, fun hl => hr hl, ho⟩, e⟩

end Sys2Proof.Machine
end

section
/-! PROOF. What is not there rests (R8, R19, R46, R60, R67, R172): the law of one slot, and the slots after each operation that applies
a record. -/

namespace Sys2Proof.Machine

/-! ## The law of one slot -/

/-- The slot rests where it is EMPTY, its fallback path where it has none, and its words are those of its record. -/
structure Slot.RestLawful (x : Slot) : Prop where
  rests : x.record.assigned = false → x = Slot.rest
  fallback : x.record.fallback = none → x.fallback = .rest
  words : x.words = wordsOf x.record

theorem State.restLaw_iff (s : State) :
    s.RestLaw ↔ (∀ k, (s.slot k).RestLawful) ∧ ∀ img, s.store.Holds img → img.Rests := by
  rw [Store.holds_all_iff]
  constructor
  · rintro ⟨hrest, hfallback, hwords, hpreset, hsave⟩
    exact ⟨fun k => ⟨fun h => (Slot.rests_iff _).mp (hrest k h), fun h => (hfallback k h).1, hwords k⟩, hpreset, hsave⟩
  · rintro ⟨hslots, hpreset, hsave⟩
    refine ⟨fun k h => (Slot.rests_iff _).mpr ((hslots k).rests h), fun k h => ⟨(hslots k).fallback h, ?_⟩, fun k => (hslots k).words,
      hpreset, hsave⟩
    rw [(hslots k).words, wordsOf_fallback_of_none h]

theorem Slot.restLawful_rest : Slot.rest.RestLawful := ⟨fun _ => rfl, fun _ => rfl, rfl⟩

theorem Slot.RestLawful.shut {x y : Slot} (h : x.RestLawful) (f : x.ShutFrame y) : y.RestLawful where
  rests e := f.rest (h.rests (f.record ▸ e))
  fallback e := (f.fallback (f.record ▸ e)).trans (h.fallback (f.record ▸ e))
  words := by rw [f.words, f.record, h.words]

/-- The law of a slot whose grants are still to be formed. -/
structure Slot.BareLawful (x : Slot) : Prop where
  bare : x.record.assigned = false → x.Bare
  fallback : x.record.fallback = none → x.fallback = .rest
  words : x.words = wordsOf x.record

theorem Slot.RestLawful.bareLawful {x : Slot} (h : x.RestLawful) : x.BareLawful :=
  ⟨fun e => h.rests e ▸ Slot.bare_rest, h.fallback, h.words⟩

/-- A slot that takes the rest record while its ramp rests is at rest, but for its grant (R46, R100). -/
theorem Slot.bareLawful_start {x : Slot} {r : SlotRecord} (h : r.assigned = false → r = .rest ∧ x.ramp = .rest) :
    (x.start r).BareLawful where
  bare e := by
    obtain ⟨rfl, hr⟩ := h e
    exact ⟨x.grant, x.share, by simp [Slot.start, hr, Slot.rest, wordsOf, contentOf, SlotRecord.rest, Selector.rest]⟩
  fallback _ := rfl
  words := rfl

theorem State.restLawful_reformAll {s : State} {k : SlotIx} (h : (s.slot k).BareLawful) : (s.reformAll.slot k).RestLawful where
  rests e := State.rest_reformAll (h.bare (by simpa using e))
  fallback e := by simpa using h.fallback (by simpa using e)
  words := by simpa using h.words

theorem State.restLawful_reformSlot {s : State} {j k : SlotIx} (h : (s.slot j).BareLawful) :
    ((s.reformSlot k).slot j).RestLawful where
  rests e := State.rest_reformSlot (h.bare (by simpa using e))
  fallback e := by simpa using h.fallback (by simpa using e)
  words := by simpa using h.words

/-- A lawful ramp that is OFF rests (R95). -/
theorem Ramp.Lawful.eq_rest {r : Ramp} (h : r.Lawful) (ho : r.state = .off) : r = .rest := by
  obtain ⟨hoff, _⟩ := h
  obtain ⟨hstep, htimer⟩ := hoff ho
  cases r
  simp_all [Ramp.rest]

/-! ## The slots after an application -/

/-- Every slot is lawful. -/
def State.SlotsRest (s : State) : Prop := ∀ k, (s.slot k).RestLawful

theorem State.SlotsRest.shut {s t : State} (h : s.SlotsRest) (f : s.ShutFrame t) : t.SlotsRest := fun k => (h k).shut (f k)

theorem State.SlotsRest.slots {s t : State} (h : s.SlotsRest) (f : t.slots = s.slots) : t.SlotsRest := h.shut (State.shutFrame_of_slots f)

theorem State.SlotsRest.applyRecord {s : State} (h : s.SlotsRest) {k : SlotIx} {r : SlotRecord}
    (hr : r.assigned = false → r = .rest ∧ (s.slot k).ramp = .rest) : (s.applyRecord k r).SlotsRest := by
  have started : ∀ j, ((s.modSlot k fun x => x.start r).slot j).BareLawful := fun j => by
    rw [State.slot_modSlot]
    split
    · exact Slot.bareLawful_start hr
    · exact (h j).bareLawful
  have formed : ∀ t : State, t.slots = (s.modSlot k fun x => x.start r).slots → (t.reformSlot k).formQuiet.SlotsRest := fun t ht j => by
    rw [State.slot_formQuiet]
    exact State.restLawful_reformSlot (by rw [State.slot_congr ht]; exact started j)
  unfold State.applyRecord
  simp only
  split
  · exact formed _ (by simp)
  · exact formed _ rfl

theorem State.SlotsRest.commit {s : State} (h : s.SlotsRest) (e : Entry) : (s.commit e).SlotsRest := h.slots (by simp)

theorem State.SlotsRest.recordApplied {s : State} (h : s.SlotsRest) {e : Entry} {k : SlotIx} {r : SlotRecord}
    (hr : r.assigned = false → r = .rest ∧ (s.slot k).ramp = .rest) : (s.recordApplied e k r).SlotsRest :=
  State.SlotsRest.commit (State.SlotsRest.applyRecord (s := { s with engine := .idle }) (h.slots rfl) hr) e

theorem State.SlotsRest.endDrain {s : State} (h : s.SlotsRest) (hl : s.RampLaw) : s.endDrain.SlotsRest := by
  rcases s.endDrain_cases with e | ⟨x, k, r, _, hk, hr, e⟩ | ⟨x, n, _, _, _, e⟩ <;> rw [e]
  · exact h
  · refine h.recordApplied fun ha => ?_
    rcases hr with ⟨q, _, rfl⟩ | ⟨_, rfl⟩
    · simp at ha
    · exact ⟨rfl, (hl k).eq_rest (by simpa [Slot.transmitting] using hk)⟩
  · exact h.slots rfl

theorem State.SlotsRest.afterOff {s : State} (h : s.SlotsRest) (hl : s.RampLaw) : s.afterOff.SlotsRest :=
  (h.endDrain hl).shut (State.airMove_closeIfOff _).shutFrame

/-- An assigned slot is written where it stays assigned, keeps its paths, and takes no words of another record. -/
theorem State.SlotsRest.modSlot {s : State} (h : s.SlotsRest) {k : SlotIx} {f : Slot → Slot}
    (ha : (f (s.slot k)).record.assigned = true)
    (hf : (f (s.slot k)).record.fallback = none → (f (s.slot k)).fallback = .rest)
    (hw : (f (s.slot k)).words = wordsOf (f (s.slot k)).record) : (s.modSlot k f).SlotsRest := fun j => by
  rw [State.slot_modSlot]
  split
  · exact ⟨fun e => by simp [ha] at e, hf, hw⟩
  · exact h j

theorem wordsOf_congr {r q : SlotRecord} (ha : q.assigned = r.assigned) (hp : q.primary = r.primary) (hf : q.fallback = r.fallback)
    (ho : q.output = r.output) : wordsOf q = wordsOf r := by
  unfold wordsOf
  rw [ha, hp, hf, ho]

/-- The drain of one slot begins: the slot is marked and turned down, before the report of OFF (R43). -/
def State.drainBegun (s : State) (e : Entry) (k : SlotIx) : State :=
  (({ s with engine := .draining e }).modSlot k fun x => { x with retuning := true }).reformSlot k

/-- The drain of a LOAD_PRESET begins: every assigned slot is marked and turned down, before the report of OFF (R47). -/
def State.loadBegun (s : State) (e : Entry) : State :=
  (({ s with engine := .draining e }).mapSlots fun _ x => { x with retuning := x.retuning || x.record.assigned }).reformAll

theorem State.takeSlotChange_transmitting {s : State} {k : SlotIx} (h : (s.slot k).transmitting = true) (e : Entry) (r : SlotRecord) :
    s.takeSlotChange e k r = (s.drainBegun e k).afterOff := by
  rw [State.takeSlotChange, if_pos h]
  rfl

theorem State.takeSlotChange_off {s : State} {k : SlotIx} (h : (s.slot k).transmitting = false) (e : Entry) (r : SlotRecord) :
    s.takeSlotChange e k r = (s.applyRecord k r).commit e := by
  rw [State.takeSlotChange, if_neg (by simp [h])]

theorem State.takeLoad_eq (s : State) (e : Entry) : s.takeLoad e = (s.loadBegun e).afterOff := rfl

theorem State.RampLaw.drainBegun {s : State} (h : s.RampLaw) (e : Entry) (k : SlotIx) : (s.drainBegun e k).RampLaw :=
  (State.rampLaw_modSlot (s := { s with engine := .draining e }) (h := h.same rfl) (h k)).reformSlot k

theorem State.RampLaw.loadBegun {s : State} (h : s.RampLaw) (e : Entry) : (s.loadBegun e).RampLaw :=
  State.RampLaw.reformAll (State.RampLaw.of_ramps h fun k => by rw [State.slot_mapSlots]; rfl)

/-- A slot that is not OFF is assigned. -/
theorem State.SlotsRest.assigned {s : State} (h : s.SlotsRest) {k : SlotIx} (hk : (s.slot k).transmitting = true) :
    (s.slot k).record.assigned = true := by
  by_contra hn
  rw [(h k).rests (by simpa using hn)] at hk
  simp [Slot.transmitting, Slot.rest, Ramp.rest] at hk

theorem State.SlotsRest.drainBegun {s : State} (h : s.SlotsRest) {k : SlotIx} (hk : (s.slot k).transmitting = true) (e : Entry) :
    (s.drainBegun e k).SlotsRest := by
  have marked : State.SlotsRest (({ s with engine := .draining e } : State).modSlot k fun x => { x with retuning := true }) :=
    State.SlotsRest.modSlot (s := { s with engine := .draining e }) (h.slots rfl) (h.assigned hk) (h k).fallback (h k).words
  exact marked.shut (State.shutFrame_reformSlot _ k)

theorem State.SlotsRest.loadBegun {s : State} (h : s.SlotsRest) (e : Entry) : (s.loadBegun e).SlotsRest := by
  have marked : State.SlotsRest (({ s with engine := .draining e } : State).mapSlots fun _ x =>
      { x with retuning := x.retuning || x.record.assigned }) := fun k => by
    rw [State.slot_mapSlots]
    refine ⟨fun ha => ?_, (h k).fallback, (h k).words⟩
    have := (h k).rests ha
    show ({ s.slot k with retuning := (s.slot k).retuning || (s.slot k).record.assigned } : Slot) = Slot.rest
    rw [this]
    rfl
  exact marked.shut (State.shutFrame_reformAll _)

theorem State.SlotsRest.takeSlotChange {s : State} (h : s.SlotsRest) (hl : s.RampLaw) {e : Entry} {k : SlotIx} {r : SlotRecord}
    (hr : r.assigned = false → r = .rest) : (s.takeSlotChange e k r).SlotsRest := by
  cases hk : (s.slot k).transmitting with
  | true =>
    rw [State.takeSlotChange_transmitting hk]
    exact (h.drainBegun hk e).afterOff (hl.drainBegun e k)
  | false =>
    rw [State.takeSlotChange_off hk]
    exact (h.applyRecord fun ha => ⟨hr ha, (hl k).eq_rest (by simpa [Slot.transmitting] using hk)⟩).commit e

theorem State.SlotsRest.takeLoad {s : State} (h : s.SlotsRest) (hl : s.RampLaw) (e : Entry) : (s.takeLoad e).SlotsRest := by
  rw [State.takeLoad_eq]
  exact (h.loadBegun e).afterOff (hl.loadBegun e)

theorem State.testChange_of_empty {s : State} {k : SlotIx} (h : (if (s.slot k).record.assigned then none else some OutcomeCode.emptySlot) = none) :
    (s.slot k).record.assigned = true := by
  by_contra hn
  simp [hn] at h

theorem State.SlotsRest.applyEnable {s : State} (h : s.SlotsRest) {k : SlotIx} (ha : (s.slot k).record.assigned = true) (v : Bool) :
    (s.applyEnable k v).SlotsRest := by
  have written : (s.modSlot k fun x => { x with record := { x.record with enabled := v } }).SlotsRest :=
    h.modSlot ha (h k).fallback ((h k).words.trans (wordsOf_congr rfl rfl rfl rfl).symm)
  have formed := written.shut ((State.AirMove.reformSlot _ k).trans (.formQuiet _)).shutFrame
  unfold State.applyEnable
  simp only
  split
  · exact formed.shut (State.airMove_wake _).shutFrame
  · exact formed

theorem State.SlotsRest.applyParams {s : State} (h : s.SlotsRest) (b rs wc q ho : Nat) : (s.applyParams b rs wc q ho).SlotsRest := by
  unfold State.applyParams
  generalize ({ s.wide with budget := b, rampStep := rs, warmUpCode := wc, quietTime := q, holdOff := ho } : PlanWide) = wide
  have written : State.SlotsRest ({ s with wide := wide } : State).formBudget := h.slots (by simp)
  exact written.shut ((State.AirMove.govern _).trans (State.airMove_measureQuiet _)).shutFrame

theorem State.SlotsRest.applyTransmit {s : State} (h : s.SlotsRest) (v : Bool) : (s.applyTransmit v).SlotsRest := by
  have written : State.SlotsRest ({ s with wide := { s.wide with txEnable := v } } : State) := h.slots rfl
  exact written.shut (State.airMove_txEnableWritten _ _).shutFrame

theorem State.SlotsRest.applyClearLockout {s : State} (h : s.SlotsRest) : s.applyClearLockout.SlotsRest := by
  have cleared : State.SlotsRest (({ s with out := { s.out with trips := [] } } : State).setTx .offAir) := h.slots rfl
  unfold State.applyClearLockout
  simp only
  split
  · exact cleared.shut (State.airMove_enterWarmUp _).shutFrame
  · exact cleared

theorem State.SlotsRest.carryOut {s : State} (h : s.SlotsRest) (hl : s.RampLaw) {e : Entry} (ht : s.testChange e.change = none) :
    (s.carryOut e).SlotsRest := by
  unfold State.carryOut
  split
  · exact h.takeSlotChange hl fun ha => by simp at ha
  · exact h.takeSlotChange hl fun _ => rfl
  · rename_i k p hc
    rw [hc] at ht
    exact ((h.modSlot (State.testChange_of_empty ht) (h k).fallback ((h k).words.trans (wordsOf_congr rfl rfl rfl rfl).symm)).shut
      (State.shutFrame_govern _)).commit e
  · rename_i k tl hy ld rd hc
    rw [hc] at ht
    refine State.SlotsRest.commit (h.modSlot (State.testChange_of_empty ht) (fun hf => ?_)
      ((h k).words.trans (wordsOf_congr rfl rfl rfl rfl).symm)) e
    show ({ (s.slot k).fallback with dwell := 0 } : PathState) = .rest
    rw [(h k).fallback hf]
    rfl
  · rename_i k v hc
    rw [hc] at ht
    exact (h.applyEnable (State.testChange_of_empty ht) v).commit e
  · exact (h.applyParams _ _ _ _ _).commit e
  · exact (h.applyTransmit _).commit e
  · exact h.takeLoad hl e
  · exact h.applyClearLockout.commit e

theorem State.slotsRest_loadImage {s : State} (h : ∀ k, (s.slot k).ramp = .rest) {img : PlanImage} (hi : img.Rests) :
    (s.loadImage img).SlotsRest := by
  obtain ⟨u, _, hslots, _, _, heq, _⟩ := s.loadImage_frame img
  rw [heq]
  refine State.SlotsRest.shut (fun k => ?_) (State.airMove_measureQuiet _).shutFrame
  refine State.restLawful_reformAll ?_
  rw [State.slot_formBudget, ← hslots k, State.slot_imaged]
  exact Slot.bareLawful_start fun ha => ⟨hi k ha, h k⟩

end Sys2Proof.Machine
end

section
/-! PROOF. The boot, the drains and the preset reads (R34, R43, R44, R47, R48, R139, R143 to R146): their laws through every operation,
and with them and the rest values the laws of every step. -/

namespace Sys2Proof.Machine

/-! ## The retuning marks (R43, R44, R47) -/

/-- The law of the marks while a report of OFF may still be to come: as `State.DrainLaw`, but that the last marked slot of a drain may
be OFF already. -/
structure State.DrainHalf (s : State) : Prop where
  still : s.engine = .booting ∨ s.engine = .idle → ∀ k, (s.slot k).retuning = false
  draining : ∀ e, s.engine = .draining e →
    (∃ k, ((∃ r, e.change = .assignSlot k r) ∨ e.change = .releaseSlot k) ∧ (s.slot k).record.assigned = true ∧ (s.slot k).Low ∧
        ∀ j, (s.slot j).retuning = true ↔ j = k) ∨
      (∃ n, e.change = .loadPreset n) ∧ ∀ j, ((s.slot j).retuning = true ↔ (s.slot j).record.assigned = true) ∧ (s.slot j).Low
  loading : ∀ e, s.engine = .loading e →
    (∃ n, e.change = .loadPreset n) ∧
      ∀ j, ((s.slot j).retuning = true ↔ (s.slot j).record.assigned = true) ∧ (s.slot j).ramp.state = .off

theorem State.DrainLaw.half {s : State} (h : s.DrainLaw) : s.DrainHalf := by
  obtain ⟨hstill, hdrain, hload⟩ := h
  refine ⟨hstill, fun e he => ?_, hload⟩
  rcases hdrain e he with ⟨k, hc, ha, hd, hm⟩ | ⟨hn, _, hj⟩
  · exact .inl ⟨k, hc, ha, .inr hd, hm⟩
  · exact .inr ⟨hn, hj⟩

/-- A slot that is marked exactly where it is assigned has no on-demand condition. -/
theorem Slot.shut_of_marked {x : Slot} (h : x.retuning = true ↔ x.record.assigned = true) : x.Shut := by
  cases ha : x.record.assigned
  · exact .inr ha
  · exact .inl (h.mpr ha)

theorem State.DrainHalf.shut {s t : State} (h : s.DrainHalf) (he : t.engine = s.engine) (f : s.ShutFrame t) : t.DrainHalf where
  still e k := by rw [(f k).retuning]; exact h.still (he ▸ e) k
  draining e hs := by
    rcases h.draining e (he ▸ hs) with ⟨k, hc, ha, hl, hm⟩ | ⟨hn, hj⟩
    · exact .inl ⟨k, hc, by rw [(f k).record]; exact ha, (f k).low (.inl ((hm k).mpr rfl)) hl, fun j => by rw [(f j).retuning]; exact hm j⟩
    · refine .inr ⟨hn, fun j => ⟨?_, (f j).low (Slot.shut_of_marked (hj j).1) (hj j).2⟩⟩
      rw [(f j).retuning, (f j).record]
      exact (hj j).1
  loading e hs := by
    obtain ⟨hn, hj⟩ := h.loading e (he ▸ hs)
    refine ⟨hn, fun j => ⟨?_, (f j).off (Slot.shut_of_marked (hj j).1) (hj j).2⟩⟩
    rw [(f j).retuning, (f j).record]
    exact (hj j).1

theorem State.DrainLaw.shut {s t : State} (h : s.DrainLaw) (he : t.engine = s.engine) (f : s.ShutFrame t) (d : s.DownKept t) :
    t.DrainLaw := by
  have half := h.half.shut he f
  obtain ⟨_, hdrain, _⟩ := h
  refine ⟨half.still, fun e hs => ?_, half.loading⟩
  rcases hdrain e (he ▸ hs) with ⟨k, hc, ha, hd, hm⟩ | ⟨hn, ⟨k, hd⟩, hj⟩
  · exact .inl ⟨k, hc, by rw [(f k).record]; exact ha, d k (.inl ((hm k).mpr rfl)) hd, fun j => by rw [(f j).retuning]; exact hm j⟩
  · refine .inr ⟨hn, ⟨k, d k (Slot.shut_of_marked (hj k).1) hd⟩, fun j => ⟨?_, (f j).low (Slot.shut_of_marked (hj j).1) (hj j).2⟩⟩
    rw [(f j).retuning, (f j).record]
    exact (hj j).1

/-- With no mark, and no change in flight, the law holds. -/
theorem State.drainLaw_of_unmarked {s : State} (hd : ∀ e, s.engine ≠ .draining e) (hl : ∀ e, s.engine ≠ .loading e)
    (hm : ∀ k, (s.slot k).retuning = false) : s.DrainLaw :=
  ⟨fun _ => hm, fun e he => absurd he (hd e), fun e he => absurd he (hl e)⟩

theorem State.markedOff_iff (s : State) : s.markedOff = true ↔ ∀ k, (s.slot k).retuning = true → (s.slot k).ramp.state = .off := by
  rw [State.markedOff, State.everySlot_iff]
  refine forall_congr' fun k => ?_
  cases (s.slot k).retuning <;> simp [Slot.transmitting]

theorem Slot.Low.down {x : Slot} (h : x.Low) (ht : x.transmitting = true) : x.ramp.state = .rampDown := by
  rcases h with h | h
  · simp [Slot.transmitting, h] at ht
  · exact h

theorem State.recordApplied_engine (s : State) (e : Entry) (k : SlotIx) (r : SlotRecord) : (s.recordApplied e k r).engine = .idle := by
  rw [State.recordApplied, State.commit_engine, (State.recordFrame_applyRecord _ k r).engine]

theorem State.recordApplied_retuning (s : State) (e : Entry) (j k : SlotIx) (r : SlotRecord) :
    ((s.recordApplied e k r).slot j).retuning = if j = k then false else (s.slot j).retuning := by
  rw [State.recordApplied, State.slot_commit]
  split
  · rename_i hj
    rw [hj]
    exact (State.applyRecord_record _ k r).2.2
  · rename_i hj
    rw [(State.recordFrame_applyRecord _ k r).slot j hj]
    rfl

/-- The report of OFF ends the drain whose last marked slot is OFF, and leaves every other as it is (R44, R47). -/
theorem State.DrainHalf.endDrain {s : State} (h : s.DrainHalf) (hr : s.SlotsRest) : s.endDrain.DrainLaw := by
  cases he : s.engine with
  | booting =>
    rw [State.endDrain_of_not_draining (by simp [he])]
    exact State.drainLaw_of_unmarked (by simp [he]) (by simp [he]) (h.still (.inl he))
  | idle =>
    rw [State.endDrain_of_not_draining (by simp [he])]
    exact State.drainLaw_of_unmarked (by simp [he]) (by simp [he]) (h.still (.inr he))
  | loading e =>
    rw [State.endDrain_of_not_draining (by simp [he])]
    exact ⟨h.still, fun x hx => by simp [he] at hx, h.loading⟩
  | draining e =>
    rcases h.draining e he with ⟨k, hc, ha, hl, hm⟩ | ⟨⟨n, hc⟩, hj⟩
    · have applied : ∀ r, (s.recordApplied e k r).DrainLaw := fun r =>
        State.drainLaw_of_unmarked (by simp [State.recordApplied_engine]) (by simp [State.recordApplied_engine]) fun j => by
          rw [State.recordApplied_retuning]
          split
          · rfl
          · rename_i hjk
            exact Bool.eq_false_iff.mpr fun hx => hjk ((hm j).mp hx)
      have lasting : (s.slot k).transmitting = true → s.DrainLaw := fun hk =>
        ⟨h.still, fun x hx => by
          obtain rfl : e = x := by simpa [he] using hx
          exact .inl ⟨k, hc, ha, hl.down hk, hm⟩, h.loading⟩
      rcases hc with ⟨r, hc⟩ | hc
      · rw [State.endDrain_assign he hc]
        split
        · exact lasting ‹_›
        · exact applied _
      · rw [State.endDrain_release he hc]
        split
        · exact lasting ‹_›
        · exact applied _
    · rw [State.endDrain_load he hc]
      split
      · rename_i hoff
        have off : ∀ j, (s.slot j).ramp.state = .off := fun j => by
          cases ha : (s.slot j).record.assigned with
          | true => exact s.markedOff_iff.mp hoff j ((hj j).1.mpr ha)
          | false => rw [(hr j).rests ha]; rfl
        refine ⟨fun x => by simp at x, fun x hx => by simp at hx, fun x hx => ?_⟩
        obtain rfl : e = x := by simpa using hx
        exact ⟨⟨n, hc⟩, fun j => ⟨(hj j).1, off j⟩⟩
      · rename_i hoff
        refine ⟨h.still, fun x hx => ?_, h.loading⟩
        obtain rfl : e = x := by simpa [he] using hx
        obtain ⟨k, hk, hon⟩ : ∃ k, (s.slot k).retuning = true ∧ (s.slot k).ramp.state ≠ .off := by
          by_contra hn
          exact hoff (s.markedOff_iff.mpr fun k hk => by_contra fun ho => hn ⟨k, hk, ho⟩)
        exact .inr ⟨⟨n, hc⟩, ⟨k, (hj k).2.down (by simp [Slot.transmitting, hon])⟩, hj⟩

theorem State.DrainHalf.afterOff {s : State} (h : s.DrainHalf) (hr : s.SlotsRest) : s.afterOff.DrainLaw :=
  (h.endDrain hr).shut (State.airFrame_closeIfOff _).engine (State.airMove_closeIfOff _).shutFrame (State.airMove_closeIfOff _).downKept

/-- A turned-down ramp is OFF or on its way there (R91). -/
theorem Ramp.react_false_low (rs : Nat) (r : Ramp) : (r.react false rs).state = .off ∨ (r.react false rs).state = .rampDown := by
  cases h : r.state with
  | off => simp [Ramp.react, h]
  | rampDown => simp [Ramp.react, h]
  | on => simp [Ramp.react, h]
  | rampUp =>
    by_cases hs : r.step = 0
    · simp [Ramp.react, h, hs, Ramp.rest]
    · simp [Ramp.react, h, hs]

theorem State.drainHalf_drainBegun {s : State} {e : Entry} {k : SlotIx} (hm : ∀ j, (s.slot j).retuning = false)
    (ha : (s.slot k).record.assigned = true) (hc : (∃ r, e.change = .assignSlot k r) ∨ e.change = .releaseSlot k) :
    (s.drainBegun e k).DrainHalf := by
  have engine : (s.drainBegun e k).engine = .draining e := by simp [State.drainBegun]
  refine ⟨fun h => by simp [engine] at h, fun x hx => ?_, fun x hx => by simp [engine] at hx⟩
  obtain rfl : e = x := by simpa [engine] using hx
  have marked : State.onDemand (({ s with engine := .draining e } : State).modSlot k fun x => { x with retuning := true }) k = false :=
    State.onDemand_of_shut (by rw [State.slot_modSlot_self]; exact .inl rfl)
  refine .inl ⟨k, hc, ?_, ?_, fun j => ?_⟩
  · rw [State.drainBegun, State.reformSlot_slot_record, State.slot_modSlot_self]
    exact ha
  · rw [Slot.Low, State.drainBegun, State.reformSlot_slot_ramp_self, marked]
    exact Ramp.react_false_low _ _
  · rw [State.drainBegun, State.reformSlot_slot_retuning, State.slot_modSlot]
    split
    · simp [*]
    · have : (State.slot { s with engine := .draining e } j).retuning = false := hm j
      simp [*]

theorem State.drainHalf_loadBegun {s : State} {e : Entry} {n : PresetIx} (hm : ∀ j, (s.slot j).retuning = false)
    (hc : e.change = .loadPreset n) : (s.loadBegun e).DrainHalf := by
  have engine : (s.loadBegun e).engine = .draining e := by simp [State.loadBegun]
  refine ⟨fun h => by simp [engine] at h, fun x hx => ?_, fun x hx => by simp [engine] at hx⟩
  obtain rfl : e = x := by simpa [engine] using hx
  refine .inr ⟨⟨n, hc⟩, fun j => ?_⟩
  have same : ((s.loadBegun e).slot j).retuning = true ↔ ((s.loadBegun e).slot j).record.assigned = true := by
    simp [State.loadBegun, hm j]
  refine ⟨same, ?_⟩
  have shut : State.onDemand (({ s with engine := .draining e } : State).mapSlots fun _ x =>
      { x with retuning := x.retuning || x.record.assigned }) j = false :=
    State.onDemand_of_shut (Slot.shut_of_marked (by simp [hm j]))
  rw [Slot.Low, State.loadBegun, State.reformAll_slot_ramp, shut]
  exact Ramp.react_false_low _ _

end Sys2Proof.Machine
end

section
/-! PROOF. The boot, the drains and the preset reads (R34, R47, R48, R50, R139, R143 to R146) through every step, with what rests. -/

namespace Sys2Proof.Machine

/-! ## What the laws read of the store -/

/-- The two stores hold the same, do the same, and report the same results. -/
structure Store.SameWork (a b : Store) : Prop where
  preset : ∀ n, b.preset n = a.preset n
  boot : b.boot = a.boot
  activity : b.activity = a.activity
  pendingRead : b.pendingRead = a.pendingRead
  lastResult : b.lastResult = a.lastResult
  bootResult : b.bootResult = a.bootResult

theorem Store.SameWork.of_eq {a b : Store} (h : b = a) : a.SameWork b := by
  subst h
  exact ⟨fun _ => rfl, rfl, rfl, rfl, rfl, rfl⟩

/-! ## The law of the boot (R34, R143 to R146) -/

/-- A part that is not in a boot has no boot to keep. -/
theorem State.bootLaw_of_running {s : State} (hr : s.resetHeld = false) (he : s.engine ≠ .booting) : s.BootLaw :=
  ⟨fun h => by simp [hr] at h, fun h => absurd h he⟩

theorem State.BootLaw.running {s : State} (h : s.BootLaw) (he : s.engine ≠ .booting) : s.resetHeld = false :=
  Bool.eq_false_iff.mpr fun hr => he (h.1 hr)

theorem State.BootLaw.of_same {s t : State} (h : s.BootLaw) (he : t.engine = s.engine) (hh : t.resetHeld = s.resetHeld)
    (hrec : ∀ k, (t.slot k).record = (s.slot k).record) (hw : t.wide = s.wide) (hg : t.generation = s.generation)
    (ho : s.engine = .booting → s.out.state = .offAir → t.out.state = .offAir) (hs : s.store.SameWork t.store) : t.BootLaw := by
  obtain ⟨hheld, hboot⟩ := h
  refine ⟨fun e => by rw [he]; exact hheld (hh ▸ e), fun e => ?_⟩
  rw [he] at e
  obtain ⟨hempty, hwide, hgen, hout, hpending, hlast, hresult, hidle, hreading⟩ := hboot e
  refine ⟨fun k => by rw [hrec]; exact hempty k, hw.trans hwide, hg.trans hgen, ho e hout, hs.pendingRead.trans hpending,
    hs.lastResult.trans hlast, hs.bootResult.trans hresult, fun g => hs.activity.trans (hidle (hh ▸ g)), fun g => ?_⟩
  obtain ⟨n, img, hsel, hvalid, hact⟩ := hreading (hh ▸ g)
  exact ⟨n, img, hs.boot.trans hsel, (hs.preset n).trans hvalid, hs.activity.trans hact⟩

/-- In a boot every slot is at rest (R34). -/
theorem State.BootLaw.slots {s : State} (h : s.BootLaw) (hr : s.SlotsRest) (he : s.engine = .booting) (k : SlotIx) :
    s.slot k = Slot.rest := (hr k).rests ((h.2 he).1 k)

theorem State.BootLaw.moved {s t : State} (h : s.BootLaw) (hr : s.SlotsRest) (hp : s.PlanFrame t)
    (ho : s.out.state = .offAir → (∀ k, s.slot k = Slot.rest) → t.out.state = .offAir) : t.BootLaw :=
  h.of_same hp.engine hp.resetHeld hp.record hp.wide hp.generation (fun e o => ho o (h.slots hr e)) (.of_eq hp.store)

theorem State.closeIfOff_of_offAir {s : State} (h : s.out.state = .offAir) : s.closeIfOff = s := by
  simp only [State.closeIfOff, h]

theorem State.endDrain_resetHeld (s : State) : s.endDrain.resetHeld = s.resetHeld := by
  rcases s.endDrain_cases with e | ⟨x, k, r, _, _, _, e⟩ | ⟨x, n, _, _, _, e⟩ <;> rw [e]
  rw [State.recordApplied, State.commit_resetHeld, (State.recordFrame_applyRecord _ k r).resetHeld]

theorem State.endDrain_not_booting {s : State} (h : s.engine ≠ .booting) : s.endDrain.engine ≠ .booting := by
  rcases s.endDrain_cases with e | ⟨x, k, r, _, _, _, e⟩ | ⟨x, n, _, _, _, e⟩ <;> rw [e]
  · exact h
  · simp [State.recordApplied_engine]
  · simp

theorem State.BootLaw.afterOff {s : State} (h : s.BootLaw) : s.afterOff.BootLaw := by
  by_cases he : s.engine = .booting
  · obtain ⟨_, _, _, hout, _⟩ := h.2 he
    rw [State.afterOff, State.endDrain_of_not_draining (by simp [he]), State.closeIfOff_of_offAir hout]
    exact h
  · have closed := State.airFrame_closeIfOff s.endDrain
    exact State.bootLaw_of_running (by rw [State.afterOff, closed.resetHeld, State.endDrain_resetHeld, h.running he])
      (by rw [State.afterOff, closed.engine]; exact State.endDrain_not_booting he)

theorem State.BootLaw.storeMove {s t : State} (h : s.BootLaw) (m : s.StoreMove t) (hs : s.engine = .booting → t.store = s.store) :
    t.BootLaw := by
  by_cases he : s.engine = .booting
  · exact h.of_same (by rw [m]) (by rw [m]) (fun k => by rw [m]; rfl) (by rw [m]) (by rw [m]) (fun _ o => by rw [m]; exact o)
      (.of_eq (hs he))
  · exact State.bootLaw_of_running (by rw [m]; exact h.running he) (by rw [m]; exact he)

/-- In a boot the store is IDLE, or reads. -/
theorem State.BootLaw.store {s : State} (h : s.BootLaw) (he : s.engine = .booting) :
    s.store.activity = .idle ∨ ∃ n, s.store.activity = .reading n := by
  obtain ⟨_, _, _, _, _, _, _, hidle, hreading⟩ := h.2 he
  cases hr : s.resetHeld with
  | true => exact .inl (hidle hr)
  | false =>
    obtain ⟨n, _, _, _, ha⟩ := hreading hr
    exact .inr ⟨n, ha⟩

theorem State.BootLaw.act {s : State} (h : s.BootLaw) (p : Port) (c : Command) (w : List Byte) : (s.act p c w).2.BootLaw := by
  have f := s.deskFrame_act p c w
  rcases s.act_store_cases p c w with ⟨x, e⟩ | ⟨op, _, hidle, hheld, _⟩
  · exact h.of_same f.engine f.resetHeld (fun k => by rw [f.slot]) f.wide f.generation (fun _ o => by rw [f.out, o])
      ⟨fun n => f.preset n, f.boot, by rw [e], by rw [e], by rw [e], by rw [e]⟩
  · refine State.bootLaw_of_running (f.resetHeld.trans hheld) fun he => ?_
    obtain ⟨_, _, _, _, _, _, _, _, hreading⟩ := h.2 (f.engine ▸ he)
    obtain ⟨n, _, _, _, ha⟩ := hreading hheld
    simp [hidle] at ha

/-! ## The law of the preset reads (R48, R50, R139) -/

theorem State.ReadLaw.of_same {s t : State} (h : s.ReadLaw) (he : t.engine = s.engine) (hs : s.store.SameWork t.store) : t.ReadLaw := by
  unfold State.ReadLaw
  rw [he, hs.activity, hs.pendingRead]
  simp only [hs.preset]
  exact h

/-- An IDLE store with no read asked for, and no LOAD_PRESET in flight. -/
theorem State.readLaw_of_none {s : State} (hd : ∀ e n, s.engine = .draining e → e.change ≠ .loadPreset n)
    (hl : ∀ e, s.engine ≠ .loading e) (ha : ∀ n, s.store.activity ≠ .reading n) (hp : s.store.pendingRead = none) : s.ReadLaw :=
  ⟨fun e n he hc => absurd hc (hd e n he), fun e _ he => absurd he (hl e), fun n hn => absurd hn (ha n),
    fun n hn => by simp [hp] at hn⟩

/-- Outside a boot and LOADING the store does not read. -/
theorem State.ReadLaw.no_read {s : State} (h : s.ReadLaw) (hb : s.engine ≠ .booting) (hl : ∀ e, s.engine ≠ .loading e) :
    (∀ n, s.store.activity ≠ .reading n) ∧ s.store.pendingRead = none := by
  obtain ⟨_, _, hreading, hpending⟩ := h
  constructor
  · intro n hn
    rcases hreading n hn with h | ⟨e, h, _⟩
    · exact hb h
    · exact hl e h
  · cases hp : s.store.pendingRead with
    | none => rfl
    | some n =>
      obtain ⟨e, h, _⟩ := hpending n hp
      exact absurd h (hl e)

/-- The engine asks for the read of the preset that its drain kept VALID (R48, R50, R139). -/
theorem State.ReadLaw.askRead {s : State} (h : s.ReadLaw) {e : Entry} {n : PresetIx} (he : s.engine = .draining e)
    (hc : e.change = .loadPreset n) : State.ReadLaw { s with engine := .loading e, store := s.store.askRead n } := by
  obtain ⟨hnoRead, hnone⟩ := h.no_read (by simp [he]) (by simp [he])
  obtain ⟨hdrain, _⟩ := h
  obtain ⟨hvalid, hfree⟩ := hdrain e n he hc
  by_cases hidle : s.store.activity = .idle
  · have ask : s.store.askRead n = s.store.begin (.reading n) readingMs := by rw [Store.askRead, if_pos hidle]
    rw [ask]
    refine ⟨fun x m hx => by simp at hx, fun x m hx hm => ?_, fun m hm => .inr ⟨e, rfl, ?_⟩, fun m hm => ?_⟩
    · obtain ⟨rfl⟩ : e = x := by simpa using hx
      obtain rfl : n = m := by simpa [hc] using hm
      exact ⟨by simpa using hvalid, .inl rfl⟩
    · obtain rfl : n = m := by simpa [Store.begin] using hm
      exact hc
    · simp [Store.begin, hnone] at hm
  · have ask : s.store.askRead n = { s.store with pendingRead := some n } := by rw [Store.askRead, if_neg hidle]
    rw [ask]
    refine ⟨fun x m hx => by simp at hx, fun x m hx hm => ?_, fun m hm => absurd hm (hnoRead m), fun m hm => ⟨e, rfl, ?_⟩⟩
    · obtain ⟨rfl⟩ : e = x := by simpa using hx
      obtain rfl : n = m := by simpa [hc] using hm
      exact ⟨hvalid, .inr ⟨rfl, hidle, hfree⟩⟩
    · obtain rfl : n = m := by simpa using hm
      exact hc

theorem State.recordApplied_store (s : State) (e : Entry) (k : SlotIx) (r : SlotRecord) : (s.recordApplied e k r).store = s.store := by
  rw [State.recordApplied, State.commit_store, (State.recordFrame_applyRecord _ k r).store]

theorem State.ReadLaw.endDrain {s : State} (h : s.ReadLaw) : s.endDrain.ReadLaw := by
  rcases s.endDrain_cases with e | ⟨x, k, r, he, _, _, e⟩ | ⟨x, n, he, hc, _, e⟩ <;> rw [e]
  · exact h
  · obtain ⟨hnoRead, hnone⟩ := h.no_read (by simp [he]) (by simp [he])
    exact State.readLaw_of_none (by simp [State.recordApplied_engine]) (by simp [State.recordApplied_engine])
      (by rwa [State.recordApplied_store]) (by rwa [State.recordApplied_store])
  · exact h.askRead he hc

theorem State.ReadLaw.airFrame {s t : State} (h : s.ReadLaw) (f : s.AirFrame t) : t.ReadLaw := h.of_same f.engine (.of_eq f.store)

theorem State.ReadLaw.afterOff {s : State} (h : s.ReadLaw) : s.afterOff.ReadLaw := h.endDrain.airFrame (State.airFrame_closeIfOff _)

/-- The first phase of a port's operation reads nothing, and names the preset of the operation alone. -/
theorem PortOp.firstPhase_activity (op : PortOp) (img : PlanImage) (p : Port) :
    (∀ n, (op.firstPhase img p).1 ≠ .reading n) ∧
      ∀ (e : Engine) (n : PresetIx), op.inUse e = false → e.usesPreset n = true → (op.firstPhase img p).1.preset ≠ some n := by
  refine ⟨fun n => by cases op <;> simp [PortOp.firstPhase], fun e n hu hn hp => ?_⟩
  cases op with
  | save m | erase m =>
    obtain rfl : m = n := by simpa [PortOp.firstPhase, Activity.preset] using hp
    simp [PortOp.inUse, hn] at hu
  | writeBoot sel => simp [PortOp.firstPhase, Activity.preset] at hp

/-- No operation of a port touches the preset of a LOAD_PRESET in flight (R50, R136). -/
theorem State.ReadLaw.act {s : State} (h : s.ReadLaw) (p : Port) (c : Command) (w : List Byte) : (s.act p c w).2.ReadLaw := by
  have f := s.deskFrame_act p c w
  rcases s.act_store_cases p c w with ⟨x, e⟩ | ⟨op, huse, hidle, _, e⟩
  · exact h.of_same f.engine ⟨fun n => f.preset n, f.boot, by rw [e], by rw [e], by rw [e], by rw [e]⟩
  · obtain ⟨hnoRead, hother⟩ := op.firstPhase_activity s.planImage p
    obtain ⟨hdrain, hload, _, hpending⟩ := h
    unfold State.ReadLaw
    rw [f.engine, e]
    refine ⟨fun x n hx hc => ⟨by simpa using (hdrain x n hx hc).1, ?_⟩, fun x n hx hc => ?_, fun n hn => absurd hn (hnoRead n), hpending⟩
    · exact hother s.engine n huse (by simp [hx, Engine.usesPreset, hc])
    · rcases (hload x n hx hc).2 with hr | ⟨_, hn, _⟩
      · simp [hidle] at hr
      · exact absurd hidle hn

/-- An operation that a port started ends: the pending read starts, where there is one (R139, R140). -/
theorem State.ReadLaw.complete {s : State} (h : s.ReadLaw) {st : Store} (hread : ∀ n, s.store.activity ≠ .reading n)
    (hp : st.pendingRead = s.store.pendingRead)
    (hv : ∀ n, s.store.activity.preset ≠ some n → st.preset n = s.store.preset n) (op : PortOp) (p : Port) (done : Bool) :
    (s.completeOperation st op p done).ReadLaw := by
  obtain ⟨hdrain, hload, _, hpending⟩ := h
  have store : (s.completeOperation st op p done).store = ({ st with lastResult := some ⟨op, p, done⟩ } : Store).finish := rfl
  have engine : (s.completeOperation st op p done).engine = s.engine := rfl
  have preset : ∀ n, ({ st with lastResult := some ⟨op, p, done⟩ } : Store).finish.preset n = st.preset n := fun n => by
    rw [Store.preset_finish]; rfl
  have pending : ({ st with lastResult := some ⟨op, p, done⟩ } : Store).finish.pendingRead = s.store.pendingRead := by
    unfold Store.finish
    split <;> exact hp
  have activity : ∀ n, ({ st with lastResult := some ⟨op, p, done⟩ } : Store).finish.activity = .reading n ↔
      s.store.pendingRead = some n := fun n => by
    rcases Store.finish_activity { st with lastResult := some ⟨op, p, done⟩ } with ⟨m, hm, ha⟩ | ⟨hm, ha⟩ <;>
      rw [ha, ← hp] <;> simp [show st.pendingRead = _ from hm]
  have noPreset : s.store.pendingRead = none →
      ({ st with lastResult := some ⟨op, p, done⟩ } : Store).finish.activity.preset = none := fun hn => by
    rcases Store.finish_activity { st with lastResult := some ⟨op, p, done⟩ } with ⟨m, hm, _⟩ | ⟨_, ha⟩
    · rw [← hp] at hn
      simp [show st.pendingRead = some m from hm] at hn
    · rw [ha]; rfl
  unfold State.ReadLaw
  rw [store, engine]
  simp only [preset, pending, activity]
  refine ⟨fun x n hx hc => ?_, fun x n hx hc => ?_, fun n hn => .inr (hpending n hn), hpending⟩
  · obtain ⟨hvalid, hfree⟩ := hdrain x n hx hc
    refine ⟨by rwa [hv n hfree], ?_⟩
    have : s.store.pendingRead = none := by
      cases hs : s.store.pendingRead with
      | none => rfl
      | some m =>
        obtain ⟨y, hy, _⟩ := hpending m hs
        simp [hx] at hy
    simp [noPreset this]
  · obtain ⟨hvalid, hr | ⟨hask, hbusy, hfree⟩⟩ := hload x n hx hc
    · exact absurd hr (hread n)
    · exact ⟨by rwa [hv n hfree], .inl hask⟩

theorem Store.preset_putPreset_of_ne (st : Store) {n m : PresetIx} (h : m ≠ n) (v : Preset) : (st.putPreset n v).preset m = st.preset m := by
  rw [Store.preset_putPreset, if_neg h]

theorem State.ReadLaw.endErasing {s : State} (h : s.ReadLaw) : s.endErasing.ReadLaw := by
  unfold State.endErasing
  split
  · rename_i n snapshot p ha
    obtain ⟨hdrain, hload, _, hpending⟩ := h
    have other : ∀ m, s.store.activity.preset ≠ some m →
        (((s.store.putPreset n .empty).begin (.savingProgram n snapshot p) programmingMs).preset m = s.store.preset m) := fun m hm => by
      rw [Store.preset_begin, Store.preset_putPreset_of_ne]
      rintro rfl
      exact hm (by rw [ha]; rfl)
    have same : (Activity.savingProgram n snapshot p).preset = s.store.activity.preset := by rw [ha]; rfl
    refine ⟨fun x m hx hc => ?_, fun x m hx hc => ?_, fun m hm => by simp [Store.begin] at hm, hpending⟩
    · obtain ⟨hvalid, hfree⟩ := hdrain x m hx hc
      exact ⟨by rwa [other m hfree], by rw [← same] at hfree; exact hfree⟩
    · obtain ⟨hvalid, hr | ⟨hask, _, hfree⟩⟩ := hload x m hx hc
      · simp [ha] at hr
      · exact ⟨by rwa [other m hfree], .inr ⟨hask, by simp [Store.begin], by rw [← same] at hfree; exact hfree⟩⟩
  · exact h

theorem State.ReadLaw.endProgramming {s : State} (h : s.ReadLaw) (v : Bool) : (s.endProgramming v).ReadLaw := by
  unfold State.endProgramming
  split
  · rename_i n snapshot p ha
    refine h.complete (st := s.store.putPreset n _) (by simp [ha]) rfl (fun m hm => Store.preset_putPreset_of_ne _ ?_ _) _ _ _
    rintro rfl
    exact hm (by rw [ha]; rfl)
  · exact h

theorem State.ReadLaw.endErase {s : State} (h : s.ReadLaw) : s.endErase.ReadLaw := by
  unfold State.endErase
  split
  · rename_i n p ha
    refine h.complete (st := s.store.putPreset n _) (by simp [ha]) rfl (fun m hm => Store.preset_putPreset_of_ne _ ?_ _) _ _ _
    rintro rfl
    exact hm (by rw [ha]; rfl)
  · exact h

theorem State.ReadLaw.endBootWrite {s : State} (h : s.ReadLaw) : s.endBootWrite.ReadLaw := by
  unfold State.endBootWrite
  split
  · rename_i sel p ha
    exact h.complete (st := { s.store with boot := sel }) (by simp [ha]) rfl (fun _ _ => rfl) _ _ _
  · exact h

end Sys2Proof.Machine
end

section
/-! PROOF. What rests, the boot, the drains and the preset reads, together, through every step (O48). -/

namespace Sys2Proof.Machine

/-- The laws of O48 that a step keeps, the ramps being lawful. -/
structure State.StandingLaw (s : State) : Prop where
  slots : s.SlotsRest
  images : ∀ img, s.store.Holds img → img.Rests
  boot : s.BootLaw
  drain : s.DrainLaw
  read : s.ReadLaw

theorem State.standingLaw_iff (s : State) : s.StandingLaw ↔ s.RestLaw ∧ s.BootLaw ∧ s.DrainLaw ∧ s.ReadLaw := by
  rw [State.restLaw_iff]
  exact ⟨fun ⟨hs, hi, hb, hd, hr⟩ => ⟨⟨hs, hi⟩, hb, hd, hr⟩, fun ⟨⟨hs, hi⟩, hb, hd, hr⟩ => ⟨hs, hi, hb, hd, hr⟩⟩

/-- An engine in IDLE with no mark, beside a store that reads for no one. -/
theorem State.standingLaw_of_idle {s : State} (hs : s.SlotsRest) (hi : ∀ img, s.store.Holds img → img.Rests) (he : s.engine = .idle)
    (hh : s.resetHeld = false) (hm : ∀ k, (s.slot k).retuning = false) (ha : ∀ n, s.store.activity ≠ .reading n)
    (hp : s.store.pendingRead = none) : s.StandingLaw where
  slots := hs
  images := hi
  boot := State.bootLaw_of_running hh (by simp [he])
  drain := State.drainLaw_of_unmarked (by simp [he]) (by simp [he]) hm
  read := State.readLaw_of_none (by simp [he]) (by simp [he]) ha hp

theorem State.StandingLaw.still {s t : State} (h : s.StandingLaw) (f : s.Still t) : t.StandingLaw where
  slots := h.slots.shut f.shut
  images := by rw [f.plan.store]; exact h.images
  boot := h.boot.moved h.slots f.plan f.offAir
  drain := h.drain.shut f.plan.engine f.shut f.down
  read := h.read.of_same f.plan.engine (.of_eq f.plan.store)

/-- Outside a boot a move on the air keeps the laws. -/
theorem State.StandingLaw.air {s t : State} (h : s.StandingLaw) (he : s.engine ≠ .booting) (m : s.AirMove t) (f : s.AirFrame t) :
    t.StandingLaw :=
  ⟨h.slots.shut m.shutFrame, by rw [f.store]; exact h.images,
    State.bootLaw_of_running (f.resetHeld.trans (h.boot.running he)) (by rw [f.engine]; exact he),
    h.drain.shut f.engine m.shutFrame m.downKept, h.read.airFrame f⟩

/-! ## Reports of OFF -/

theorem State.holds_afterOff {s : State} {img : PlanImage} (h : s.afterOff.store.Holds img) : s.store.Holds img := by
  rw [State.afterOff, (State.airFrame_closeIfOff _).store] at h
  rcases s.endDrain_cases with e | ⟨x, k, r, _, _, _, e⟩ | ⟨x, n, _, _, _, e⟩ <;> rw [e] at h
  · exact h
  · rwa [State.recordApplied_store] at h
  · exact h.of_askRead

/-- The report of OFF from what finds it: every law but that of the marks holds already. -/
theorem State.standingLaw_afterOff {s : State} (hl : s.RampLaw) (hs : s.SlotsRest) (hi : ∀ img, s.store.Holds img → img.Rests)
    (hb : s.BootLaw) (hd : s.DrainHalf) (hr : s.ReadLaw) : s.afterOff.StandingLaw where
  slots := hs.afterOff hl
  images img hh := hi img (State.holds_afterOff hh)
  boot := hb.afterOff
  drain := hd.afterOff hs
  read := hr.afterOff

theorem State.StandingLaw.reported {s u : State} (h : s.StandingLaw) (hl : s.RampLaw) (f : s.Reported u) : u.afterOff.StandingLaw :=
  State.standingLaw_afterOff (f.ramps hl) (h.slots.shut f.shut) (by rw [f.plan.store]; exact h.images)
    (h.boot.moved h.slots f.plan f.offAir) (h.drain.half.shut f.plan.engine f.shut) (h.read.of_same f.plan.engine (.of_eq f.plan.store))

/-! ## The ports and the store -/

/-- A snapshot of the plan rests where its slots do (R137). -/
theorem State.SlotsRest.image {s : State} (h : s.SlotsRest) : s.planImage.Rests := fun k ha => by
  have record : s.planImage.records[k.val] = (s.slot k).record := by simp [State.planImage]
  rw [record] at ha ⊢
  rw [(h k).rests ha]
  rfl

theorem State.StandingLaw.act {s : State} (h : s.StandingLaw) (p : Port) (c : Command) (w : List Byte) : (s.act p c w).2.StandingLaw where
  slots := h.slots.slots (s.deskFrame_act p c w).slots
  images img hh := by
    rcases State.holds_act hh with hh | rfl
    · exact h.images img hh
    · exact h.slots.image
  boot := h.boot.act p c w
  drain := h.drain.shut (s.deskFrame_act p c w).engine (State.shutFrame_of_slots (s.deskFrame_act p c w).slots) fun k _ hd => by
    rwa [(s.deskFrame_act p c w).slot]
  read := h.read.act p c w

/-- A move of the ports that leaves the store. -/
theorem State.StandingLaw.desk {s t : State} (h : s.StandingLaw) (f : s.DeskFrame t) (hs : t.store = s.store) : t.StandingLaw where
  slots := h.slots.slots f.slots
  images := by rw [hs]; exact h.images
  boot := h.boot.of_same f.engine f.resetHeld (fun k => by rw [f.slot]) f.wide f.generation (fun _ o => by rw [f.out, o]) (.of_eq hs)
  drain := h.drain.shut f.engine (State.shutFrame_of_slots f.slots) fun k _ hd => by rwa [f.slot]
  read := h.read.of_same f.engine (.of_eq hs)

theorem State.StandingLaw.deskMove {s t : State} (h : s.StandingLaw) (m : s.DeskMove t) : t.StandingLaw :=
  m.keeps (P := State.StandingLaw) (fun s p f hs => hs.desk (s.deskFrame_modPort p f) rfl) (fun _ p c w hs => hs.act p c w)
    (fun s p hs => hs.desk (s.deskFrame_purge p) (s.purge_store p)) h

theorem State.StandingLaw.storeMove {s t : State} (h : s.StandingLaw) (m : s.StoreMove t) (hh : ∀ img, t.store.Holds img → s.store.Holds img)
    (hb : s.engine = .booting → t.store = s.store) (hr : t.ReadLaw) : t.StandingLaw where
  slots := h.slots.slots (by rw [m])
  images img hi := h.images img (hh img hi)
  boot := h.boot.storeMove m hb
  drain := h.drain.shut (by rw [m]) (State.shutFrame_of_slots (by rw [m])) fun k _ hd => by
    have : t.slot k = s.slot k := by rw [m]; rfl
    rwa [this]
  read := hr

/-- In a boot no operation of a port is in progress, so none ends. -/
theorem State.StandingLaw.boot_store {s : State} (h : s.StandingLaw) {t : State}
    (hm : (s.store.activity = .idle ∨ ∃ n, s.store.activity = .reading n) → t = s) (he : s.engine = .booting) : t.store = s.store := by
  rw [hm (h.boot.store he)]

theorem State.StandingLaw.endErasing {s : State} (h : s.StandingLaw) : s.endErasing.StandingLaw :=
  h.storeMove s.storeMove_endErasing (fun _ => State.holds_endErasing)
    (h.boot_store fun ha => by rcases ha with ha | ⟨n, ha⟩ <;> simp only [State.endErasing, ha]) h.read.endErasing

theorem State.StandingLaw.endProgramming {s : State} (h : s.StandingLaw) (v : Bool) : (s.endProgramming v).StandingLaw :=
  h.storeMove (s.storeMove_endProgramming v) (fun _ => State.holds_endProgramming)
    (h.boot_store fun ha => by rcases ha with ha | ⟨n, ha⟩ <;> simp only [State.endProgramming, ha]) (h.read.endProgramming v)

theorem State.StandingLaw.endErase {s : State} (h : s.StandingLaw) : s.endErase.StandingLaw :=
  h.storeMove s.storeMove_endErase (fun _ => State.holds_endErase)
    (h.boot_store fun ha => by rcases ha with ha | ⟨n, ha⟩ <;> simp only [State.endErase, ha]) h.read.endErase

theorem State.StandingLaw.endBootWrite {s : State} (h : s.StandingLaw) : s.endBootWrite.StandingLaw :=
  h.storeMove s.storeMove_endBootWrite (fun _ => State.holds_endBootWrite)
    (h.boot_store fun ha => by rcases ha with ha | ⟨n, ha⟩ <;> simp only [State.endBootWrite, ha]) h.read.endBootWrite

/-! ## Resets and boots -/

theorem State.standingLaw_deviceReset {s : State} (hi : ∀ img, s.store.Holds img → img.Rests) : s.deviceReset.StandingLaw where
  slots k := by rw [State.slot_deviceReset]; exact Slot.restLawful_rest
  images img hh := hi img hh.of_cut
  boot := ⟨fun _ => rfl, fun _ => ⟨fun k => by rw [State.slot_deviceReset]; rfl, rfl, rfl, rfl, rfl, rfl, rfl, fun _ => rfl,
    fun h => by cases h⟩⟩
  drain := State.drainLaw_of_unmarked (fun _ h => by cases h) (fun _ h => by cases h) fun k => by rw [State.slot_deviceReset]; rfl
  read := State.readLaw_of_none (fun _ _ h => by cases h) (fun _ h => by cases h) (fun _ h => by cases h) rfl

/-- The boot's result is noted, before the transmitter acts on the plan's tx_enable (R145). -/
def State.bootNoted (s : State) (r : BootResult) : State :=
  ({ s with engine := .idle, store := { s.store with bootResult := r } }).latchBoth .boot

theorem State.endBoot_eq (s : State) (r : BootResult) : s.endBoot r = (s.bootNoted r).txEnableWritten false := rfl

/-- The boot ends at a store that reads nothing, with no mark (R145). -/
theorem State.standingLaw_endBoot {s : State} (hs : s.SlotsRest) (hi : ∀ img, s.store.Holds img → img.Rests)
    (hh : s.resetHeld = false) (hm : ∀ k, (s.slot k).retuning = false) (ha : s.store.activity = .idle)
    (hp : s.store.pendingRead = none) (r : BootResult) : (s.endBoot r).StandingLaw := by
  have noted : (s.bootNoted r).StandingLaw :=
    State.standingLaw_of_idle (hs.slots rfl) (fun img h => hi img (h.of_same (fun _ => rfl) rfl)) rfl hh hm
      (fun n hn => by simp [show s.store.activity = .reading n from hn] at ha) hp
  rw [State.endBoot_eq]
  exact noted.air (by simp [State.bootNoted]) (State.airMove_txEnableWritten _ _) (State.airFrame_txEnableWritten _ _)

theorem State.shutFrame_formed {s t : State} (h : t.slots = s.slots) : s.ShutFrame t.formBudget.govern :=
  (State.shutFrame_of_slots (by simpa using h)).trans (State.shutFrame_govern _)

theorem State.shutFrame_released (s : State) (hi lo : Bool) : s.ShutFrame (s.released hi lo) := by
  unfold State.released
  exact State.shutFrame_formed rfl

/-- In a boot the read of the selected preset starts (R143). -/
theorem State.standingLaw_bootRead {s : State} {n : PresetIx} {img : PlanImage} (hs : s.SlotsRest)
    (hi : ∀ img, s.store.Holds img → img.Rests) (he : s.engine = .booting) (hh : s.resetHeld = false)
    (hm : ∀ k, (s.slot k).retuning = false) (hempty : ∀ k, (s.slot k).record.assigned = false)
    (hwide : s.wide = ⟨1000, 8, 2, 60, 5, false⟩) (hgen : s.generation = 0) (hout : s.out.state = .offAir)
    (hp : s.store.pendingRead = none) (hlast : s.store.lastResult = none) (hresult : s.store.bootResult = .pending)
    (ha : s.store.activity = .idle) (hn : s.store.boot = some n) (hv : s.store.preset n = .valid img) :
    State.StandingLaw { s with store := s.store.askRead n } := by
  have ask : s.store.askRead n = s.store.begin (.reading n) readingMs := by rw [Store.askRead, if_pos ha]
  rw [ask]
  refine ⟨hs.slots rfl, fun i h => hi i (h.of_presets (Store.preset_begin _ _ _) fun _ _ => by simp [Store.begin]),
    ⟨fun hx => by simp [hh] at hx, fun _ => ?_⟩, ⟨fun _ => hm, fun x hx => by simp [he] at hx, fun x hx => by simp [he] at hx⟩,
    fun x m hx => by simp [he] at hx, fun x m hx => by simp [he] at hx, fun m _ => .inl he, fun m hm => ?_⟩
  · exact ⟨hempty, hwide, hgen, hout, hp, hlast, hresult, fun hx => by simp [hh] at hx, fun _ => ⟨n, img, hn, hv, rfl⟩⟩
  · simp [Store.begin, hp] at hm

theorem State.StandingLaw.endOfReset {s : State} (h : s.StandingLaw) (hh : s.resetHeld = true) (hi lo : Bool) :
    (s.endOfReset hi lo).StandingLaw := by
  have he : s.engine = .booting := h.boot.1 hh
  obtain ⟨hempty, hwide, hgen, hout, hpending, hlast, hresult, hidle, _⟩ := h.boot.2 he
  have frame := s.shutFrame_released hi lo
  have marks : ∀ k, ((s.released hi lo).slot k).retuning = false := fun k => by rw [(frame k).retuning]; exact h.drain.1 (.inl he) k
  have images : ∀ img, (s.released hi lo).store.Holds img → img.Rests := by rw [State.released_store]; exact h.images
  have ended : ∀ r, ((s.released hi lo).endBoot r).StandingLaw := fun r =>
    State.standingLaw_endBoot (h.slots.shut frame) images (by simp) marks (by simpa using hidle hh) (by simpa using hpending) r
  rw [State.endOfReset_eq]
  rcases (s.released hi lo).bootDecision_cases with ⟨_, e⟩ | ⟨_, _, _, e⟩ | ⟨_, _, _, e⟩ | ⟨n, img, hn, hv, e⟩ <;> rw [e]
  · exact ended _
  · exact ended _
  · exact ended _
  · exact State.standingLaw_bootRead (h.slots.shut frame) images (by simpa using he) (by simp) marks
      (fun k => by rw [(frame k).record]; exact hempty k) (by simpa using hwide) (by simpa using hgen) (by simpa using hout)
      (by simpa using hpending) (by simpa using hlast) (by simpa using hresult) (by simpa using hidle hh) hn hv

/-! ## Preset reads -/

theorem State.loadImage_resetHeld (s : State) (img : PlanImage) : (s.loadImage img).resetHeld = s.resetHeld := by
  obtain ⟨u, hu, _, _, hf, _⟩ := s.loadImage_frame img
  rw [hf.resetHeld, State.formBudget_resetHeld, hu.resetHeld]
  rfl

/-- The image is in the plan and the engine in IDLE (R49, R144). -/
theorem State.StandingLaw.loaded {s : State} (h : s.StandingLaw) {n : PresetIx} {img : PlanImage} (hv : s.store.preset n = .valid img)
    (hh : s.resetHeld = false) (hr : ∀ k, (s.slot k).ramp = .rest) : (s.readEnded.loadImage img).StandingLaw := by
  obtain ⟨_, hengine, _, _, hstore, _⟩ := s.readEnded.loadImage_rest img
  refine State.standingLaw_of_idle (State.slotsRest_loadImage (s := s.readEnded) hr (h.images img (.inl ⟨n, hv⟩))) (fun i hi => ?_) hengine ?_
    (fun k => (s.readEnded.loadImage_slot img k).1.2.2) ?_ ?_
  · rw [hstore] at hi
    exact h.images i hi.of_endRead
  · rw [State.loadImage_resetHeld]
    exact hh
  · rw [hstore]
    simp [State.readEnded, Store.endRead, Store.begin]
  · rw [hstore]
    rfl

theorem State.StandingLaw.endRead {s : State} (h : s.StandingLaw) (hl : s.RampLaw) : s.endRead.StandingLaw := by
  rcases s.endRead_cases with e | ⟨n, img, x, _, hv, he, e⟩ | ⟨n, img, ha, hv, he, e⟩ <;> rw [e]
  · exact h
  · have off : ∀ k, (s.slot k).ramp = .rest := fun k => (hl k).eq_rest (((h.drain.2.2 x he).2 k).2)
    have hh := h.boot.running (by simp [he])
    have loaded := h.loaded hv hh off
    obtain ⟨_, hengine, _, _, hstore, _⟩ := s.readEnded.loadImage_rest img
    have committed : ((s.readEnded.loadImage img).commit x).StandingLaw :=
      State.standingLaw_of_idle (loaded.slots.commit x) (by rw [State.commit_store]; exact loaded.images) (by simpa using hengine)
        (by rw [State.commit_resetHeld, State.loadImage_resetHeld]; exact hh)
        (fun k => by rw [State.slot_commit]; exact (s.readEnded.loadImage_slot img k).1.2.2)
        (by rw [State.commit_store, hstore]; simp [State.readEnded, Store.endRead, Store.begin])
        (by rw [State.commit_store, hstore]; rfl)
    exact committed.air (by simp [hengine]) (State.airMove_txEnableWritten _ _) (State.airFrame_txEnableWritten _ _)
  · have rests : ∀ k, (s.slot k).ramp = .rest := fun k => by rw [h.boot.slots h.slots he]; rfl
    have hh : s.resetHeld = false := Bool.eq_false_iff.mpr fun hx => by
      obtain ⟨_, _, _, _, _, _, _, hidle, _⟩ := h.boot.2 he
      simp [ha] at hidle
      simp [hx] at hidle
    have loaded := h.loaded hv hh rests
    obtain ⟨_, hengine, _, _, hstore, _⟩ := s.readEnded.loadImage_rest img
    unfold State.completeBoot
    refine State.standingLaw_endBoot (s := { s.readEnded.loadImage img with generation := s.readEnded.generation + 1 }) (loaded.slots.slots rfl) loaded.images ?_ (fun k => (s.readEnded.loadImage_slot img k).1.2.2) ?_ ?_ _
    · exact (State.loadImage_resetHeld _ _).trans hh
    · exact (congrArg Store.activity hstore).trans rfl
    · exact (congrArg Store.pendingRead hstore).trans rfl

/-! ## Takings -/

theorem State.retuning_modSlot (s : State) {k : SlotIx} {f : Slot → Slot} (hf : (f (s.slot k)).retuning = (s.slot k).retuning) (j : SlotIx) :
    ((s.modSlot k f).slot j).retuning = (s.slot j).retuning := by
  rw [State.slot_modSlot]
  split
  · rename_i hj
    rw [hj, hf]
  · rfl

theorem State.applyRecord_retuning (s : State) (j k : SlotIx) (r : SlotRecord) (h : (s.slot j).retuning = false) :
    ((s.applyRecord k r).slot j).retuning = false := by
  by_cases hj : j = k
  · rw [hj]
    exact (State.applyRecord_record s k r).2.2
  · rw [(s.recordFrame_applyRecord k r).slot j hj]
    exact h

theorem State.applyEnable_retuning (s : State) (j k : SlotIx) (v : Bool) : ((s.applyEnable k v).slot j).retuning = (s.slot j).retuning := by
  have written := s.retuning_modSlot (k := k) (f := fun x => { x with record := { x.record with enabled := v } }) rfl j
  have formed := ((State.airFrame_reformSlot (s.modSlot k fun x => { x with record := { x.record with enabled := v } }) k).trans
    (State.airFrame_formQuiet _)).retuning j
  unfold State.applyEnable
  simp only
  split
  · exact ((State.airFrame_wake _).retuning j).trans (formed.trans written)
  · exact formed.trans written

theorem State.applyParams_retuning (s : State) (j : SlotIx) (b rs wc q ho : Nat) :
    ((s.applyParams b rs wc q ho).slot j).retuning = (s.slot j).retuning := by
  unfold State.applyParams
  generalize ({ s.wide with budget := b, rampStep := rs, warmUpCode := wc, quietTime := q, holdOff := ho } : PlanWide) = wide
  exact ((State.airFrame_govern _).trans (State.airFrame_measureQuiet _)).retuning j

theorem State.applyClearLockout_retuning (s : State) (j : SlotIx) : (s.applyClearLockout.slot j).retuning = (s.slot j).retuning := by
  have cleared := (State.airFrame_setTx { s with out := { s.out with trips := [] } } .offAir).retuning j
  unfold State.applyClearLockout
  simp only
  split
  · exact ((State.airFrame_enterWarmUp _).retuning j).trans cleared
  · exact cleared

theorem State.engineFrame_drainBegun (s : State) (e : Entry) (k : SlotIx) : State.EngineFrame { s with engine := .draining e } (s.drainBegun e k) :=
  (State.engineFrame_modSlot _ k _).trans (State.airFrame_reformSlot _ k).engineFrame

theorem State.engineFrame_mapSlots (s : State) (f : SlotIx → Slot → Slot) : s.EngineFrame (s.mapSlots f) :=
  State.engineFrame_of_ports (by simp) (by simp) (by simp) (by simp) (by simp) (by simp) (by simp)

theorem State.engineFrame_loadBegun (s : State) (e : Entry) : State.EngineFrame { s with engine := .draining e } (s.loadBegun e) :=
  (State.engineFrame_mapSlots _ _).trans (State.airFrame_reformAll _).engineFrame

/-- The drain of a change that an engine in IDLE has taken begins lawfully (R43, R47, R50). -/
theorem State.StandingLaw.draining {s u : State} (h : s.StandingLaw) (hi : s.engine = .idle) {e : Entry}
    (f : State.EngineFrame { s with engine := .draining e } u) (hl : u.RampLaw) (hs : u.SlotsRest) (hd : u.DrainHalf)
    (hc : ∀ n, e.change = .loadPreset n → (∃ img, s.store.preset n = .valid img) ∧ s.store.activity.preset ≠ some n) :
    u.afterOff.StandingLaw := by
  obtain ⟨hnoRead, hnone⟩ := h.read.no_read (by simp [hi]) (by simp [hi])
  have engine : u.engine = .draining e := f.engine
  have store : u.store = s.store := f.store
  refine State.standingLaw_afterOff hl hs (by rw [store]; exact h.images)
    (State.bootLaw_of_running (f.resetHeld.trans (h.boot.running (by simp [hi]))) (by simp [engine])) hd ?_
  refine ⟨fun x n hx hn => ?_, fun x n hx => by simp [engine] at hx, fun n hn => ?_, fun n hn => ?_⟩
  · obtain rfl : e = x := by simpa [engine] using hx
    rw [store]
    exact hc n hn
  · rw [store] at hn
    exact absurd hn (hnoRead n)
  · rw [store, hnone] at hn
    simp at hn

/-- An application by an engine in IDLE that sets no mark keeps the laws. -/
theorem State.StandingLaw.applied {s u : State} (h : s.StandingLaw) (hi : s.engine = .idle) (f : s.EngineFrame u) (hs : u.SlotsRest)
    (hm : ∀ k, (s.slot k).retuning = false → (u.slot k).retuning = false) (e : Entry) : (u.commit e).StandingLaw := by
  have marks := h.drain.1 (.inr hi)
  obtain ⟨hnoRead, hnone⟩ := h.read.no_read (by simp [hi]) (by simp [hi])
  exact State.standingLaw_of_idle (hs.commit e) (by rw [State.commit_store, f.store]; exact h.images)
    (by rw [State.commit_engine, f.engine, hi]) (by rw [State.commit_resetHeld, f.resetHeld, h.boot.running (by simp [hi])])
    (fun k => by rw [State.slot_commit]; exact hm k (marks k)) (by rw [State.commit_store, f.store]; exact hnoRead)
    (by rw [State.commit_store, f.store]; exact hnone)

theorem State.StandingLaw.takeSlotChange {s : State} (h : s.StandingLaw) (hl : s.RampLaw) (hi : s.engine = .idle) {e : Entry}
    {k : SlotIx} {r : SlotRecord} (hc : (∃ r, e.change = .assignSlot k r) ∨ e.change = .releaseSlot k)
    (hr : r.assigned = false → r = .rest) : (s.takeSlotChange e k r).StandingLaw := by
  cases hk : (s.slot k).transmitting with
  | true =>
    rw [State.takeSlotChange_transmitting hk]
    exact h.draining hi (s.engineFrame_drainBegun e k) (hl.drainBegun e k) (h.slots.drainBegun hk e)
      (State.drainHalf_drainBegun (h.drain.1 (.inr hi)) (h.slots.assigned hk) hc) fun n hn => by
        rcases hc with ⟨q, hc⟩ | hc <;> simp [hc] at hn
  | false =>
    rw [State.takeSlotChange_off hk]
    exact h.applied hi (s.engineFrame_applyRecord k r)
      (h.slots.applyRecord fun ha => ⟨hr ha, (hl k).eq_rest (by simpa [Slot.transmitting] using hk)⟩)
      (fun j => s.applyRecord_retuning j k r) e

theorem Preset.isValid_iff (v : Preset) : v.isValid = true ↔ ∃ img, v = .valid img := by
  cases v <;> simp [Preset.isValid]

/-- A LOAD_PRESET that passes its tests names a VALID preset that no operation is at (R39, Table 2.4.2). -/
theorem State.testChange_load {s : State} {n : PresetIx} (h : s.testChange (.loadPreset n) = none) :
    (∃ img, s.store.preset n = .valid img) ∧ s.store.activity.preset ≠ some n := by
  simp only [State.testChange] at h
  split at h
  · simp at h
  · rename_i hv
    split at h
    · simp at h
    · exact ⟨(Preset.isValid_iff _).mp (by simpa using hv), ‹_›⟩

/-- What an engine in IDLE carries out keeps the laws (R41, R43, R47, R50). -/
theorem State.StandingLaw.carryOut {s : State} (h : s.StandingLaw) (hl : s.RampLaw) (hi : s.engine = .idle) {e : Entry}
    (ht : s.testChange e.change = none) : (s.carryOut e).StandingLaw := by
  have written : ∀ {u : State}, s.EngineFrame u → u.SlotsRest → (∀ k, (u.slot k).retuning = (s.slot k).retuning) →
      (u.commit e).StandingLaw := fun f hs hm => h.applied hi f hs (fun k hk => (hm k).trans hk) e
  have slots := h.slots.carryOut hl ht
  unfold State.carryOut at slots ⊢
  cases hc : e.change with
  | assignSlot k r => exact h.takeSlotChange hl hi (.inl ⟨r, hc⟩) fun ha => by simp at ha
  | releaseSlot k => exact h.takeSlotChange hl hi (.inr hc) fun _ => rfl
  | loadPreset n =>
    rw [hc] at ht
    refine h.draining hi (s.engineFrame_loadBegun e) (hl.loadBegun e) (h.slots.loadBegun e)
      (State.drainHalf_loadBegun (h.drain.1 (.inr hi)) hc) fun m hm => ?_
    obtain rfl : n = m := by simpa [hc] using hm
    exact State.testChange_load ht
  | setPower k p =>
    rw [hc] at slots
    exact written (s.engineFrame_applyPower k p) (slots.slots (by simp))
      fun j => ((State.airFrame_govern _).retuning j).trans (s.retuning_modSlot rfl j)
  | setThresholds k t y l r =>
    rw [hc] at slots
    exact written (s.engineFrame_applyThresholds k t y l r) (slots.slots (by simp)) fun j => s.retuning_modSlot rfl j
  | setSlotEnable k v =>
    rw [hc] at slots
    exact written (s.engineFrame_applyEnable k v) (slots.slots (by simp)) fun j => s.applyEnable_retuning j k v
  | setPlanParams b rs wc q ho =>
    exact written (s.engineFrame_applyParams b rs wc q ho) (h.slots.applyParams b rs wc q ho)
      fun j => s.applyParams_retuning j b rs wc q ho
  | setTransmit v =>
    exact written (s.engineFrame_applyTransmit v) (h.slots.applyTransmit v) fun j => (State.airFrame_txEnableWritten _ _).retuning j
  | clearLockout => exact written s.engineFrame_applyClearLockout h.slots.applyClearLockout fun j => s.applyClearLockout_retuning j

theorem State.StandingLaw.takeKind {s : State} (h : s.StandingLaw) (hl : s.RampLaw) (kind : ChangeKind) : (s.takeKind kind).StandingLaw := by
  have taken : ∀ x, (s.without x).StandingLaw := fun x =>
    ⟨h.slots.slots rfl, h.images, h.boot.of_same rfl rfl (fun _ => rfl) rfl rfl (fun _ o => o) (.of_eq rfl),
      h.drain.shut rfl (State.shutFrame_of_slots rfl) fun _ _ hd => hd, h.read.of_same rfl (.of_eq rfl)⟩
  rcases s.takeKind_cases kind with e | ⟨x, _, _, ⟨code, e⟩ | ⟨⟨hi, _, _, ht⟩, e⟩⟩ <;> rw [e]
  · exact h
  · exact (taken x).desk (State.deskFrame_placeOutcome _ _ _) rfl
  · exact (taken x).carryOut (hl.same rfl) hi (e := x.clamped) ht

/-! ## Every step -/

theorem exec_keeps_standingLaw {c : Instr} {s t : State} (h : exec c s = .next t) : s.StandingLaw → s.RampLaw → t.StandingLaw :=
  exec_still_cases (P := fun s t => s.StandingLaw → s.RampLaw → t.StandingLaw)
    (still := fun _ _ f hs _ => hs.still f) (reported := fun _ _ f hs hl => hs.reported hl f)
    (desk := fun _ _ m hs _ => hs.deskMove m) (reset := fun _ hs _ => State.standingLaw_deviceReset hs.images)
    (endOfReset := fun _ hi lo hh hs _ => hs.endOfReset hh hi lo) (taking := fun _ kind hs hl => hs.takeKind hl kind)
    (endErasing := fun _ hs _ => hs.endErasing) (endProgramming := fun _ v hs _ => hs.endProgramming v)
    (endErase := fun _ hs _ => hs.endErase) (endBootWrite := fun _ hs _ => hs.endBootWrite) (endRead := fun _ hs hl => hs.endRead hl) h

theorem State.StandingLaw.bookkeeping {s : State} (h : s.StandingLaw) (q : List Instr) (n : Nat) :
    State.StandingLaw { s with pending := q, fresh := n } :=
  ⟨h.slots.slots rfl, h.images, h.boot.of_same rfl rfl (fun _ => rfl) rfl rfl (fun _ o => o) (.of_eq rfl),
    h.drain.shut rfl (State.shutFrame_of_slots rfl) fun _ _ hd => hd, h.read.of_same rfl (.of_eq rfl)⟩

/-- A millisecond moves timers alone, and no timer runs in a slot at rest. -/
theorem State.shutFrame_tick (s : State) : s.ShutFrame s.tick := fun k => by
  rw [State.slot_tick]
  exact ⟨rfl, rfl, rfl, fun _ => rfl, fun _ h => h, fun _ h => h, fun h => by rw [h]; rfl⟩

theorem State.StandingLaw.tick {s : State} (h : s.StandingLaw) : s.tick.StandingLaw := by
  have work : s.store.SameWork s.tick.store := by
    rw [State.tick_store]
    exact ⟨fun _ => rfl, rfl, rfl, rfl, rfl, rfl⟩
  exact
    { slots := h.slots.shut s.shutFrame_tick
      images := fun img hh => h.images img (hh.of_same work.preset work.activity)
      boot := h.boot.of_same (by simp) (by simp) (fun k => (s.shutFrame_tick k).record) (by simp) (by simp) (fun _ o => by simpa using o) work
      drain := h.drain.shut (by simp) s.shutFrame_tick fun k _ hd => by rw [State.slot_tick]; exact hd
      read := h.read.of_same (by simp) work }

/-- Settles O48: no command and no millisecond breaks what rests, the boot, a drain or a preset read, the ramps being lawful. -/
theorem everyStepKeepsTheRestAndReadLaws : Obligations.EveryStepKeepsTheRestAndReadLaws := by
  unfold Obligations.EveryStepKeepsTheRestAndReadLaws
  intro s t ⟨hramp, hlaws⟩ hstep
  rw [← State.standingLaw_iff] at hlaws
  have kept : t.StandingLaw ∧ t.RampLaw :=
    step_keeps (P := fun s => s.StandingLaw ∧ s.RampLaw)
      (fun _ _ _ h hs => ⟨exec_keeps_standingLaw h hs.1 hs.2, exec_keeps_rampLaw h hs.2⟩)
      (fun _ q n hs => ⟨hs.1.bookkeeping q n, hs.2.same rfl⟩) (fun _ hs => ⟨hs.1.tick, hs.2.tick⟩) hstep ⟨hlaws, hramp⟩
  exact t.standingLaw_iff.mp kept.1

end Sys2Proof.Machine
end

section
/-! PROOF. The machine (O1 to O3) and the state right after reset (O8). -/

namespace Sys2Proof.Machine

/-! ## The machine -/

/-- Settles O1: it is the meaning of a step. -/
theorem stepRunsTheFrontCommand : Obligations.StepRunsTheFrontCommand := by
  unfold Obligations.StepRunsTheFrontCommand
  intro c rest s
  rfl

theorem step_empty {s : State} (h : s.pending = []) : step s = idle s := by
  rw [step, h]

theorem idle_held {s : State} (h : s.resetHeld = true) : idle s = .next s := by
  rw [idle, if_pos h]

/-- The one event that may come, and is due, comes. -/
theorem idle_event {s : State} (h : s.resetHeld = false) {c : Instr} (hp : s.possibleEvents = [c]) (hd : s.dueEvents = [c]) :
    idle s = exec c { s with fresh := s.fresh + 1 } := by
  have choice : s.choice = 0 := by
    rw [State.choice, if_pos]
    simp [State.choices, hp, hd]
  simp [idle, h, choice, hp]

/-- With no event that may come, time passes. -/
theorem idle_tick {s : State} (h : s.resetHeld = false) (hp : s.possibleEvents = []) :
    idle s = .next { s.tick with fresh := s.fresh + 1 } := by
  simp [idle, h, hp]

/-- Settles O2: while a reset is held nothing comes; the only event that may come is picked; with none a millisecond passes. -/
theorem emptyQueueLetsTheDueEventComeOrTimePass : Obligations.EmptyQueueLetsTheDueEventComeOrTimePass := by
  unfold Obligations.EmptyQueueLetsTheDueEventComeOrTimePass
  intro s he
  rw [step_empty he]
  refine ⟨idle_held, fun hr c hp hd => idle_event hr hp hd, fun hr hp => ⟨_, idle_tick hr hp, ?_⟩⟩
  have port := s.port_tick
  have slot := s.slot_tick
  have now := s.tick_now
  have monitorIn := s.tick_monitorIn
  have store := s.tick_store
  have out := s.tick_out
  have pending := s.tick_pending.trans he
  have held := s.tick_resetHeld.trans hr
  have plan := s.planFrame_tick
  have feeds := s.tick_feeds
  have bEff := s.tick_bEff
  have protHi := s.tick_protHi
  have protLo := s.tick_protLo
  obtain ⟨wide, generation, engine, _, changes, _⟩ := plan
  generalize s.tick = t at *
  exact ⟨now, rfl, monitorIn, store, out, port, slot, pending, wide, generation, changes, engine, feeds, bEff, protHi, protLo, held⟩

/-- Settles O3: no command faults or is refused, and none moves the queue. -/
theorem noCommandStopsTheMachine : Obligations.NoCommandStopsTheMachine := by
  unfold Obligations.NoCommandStopsTheMachine
  intro c s
  obtain ⟨t, ht⟩ := exec_next c s
  exact ⟨t, ht, (runFrame_exec ht).pending⟩

/-! ## Right after reset -/

/-- A device reset of the part right after reset changes nothing. -/
theorem State.deviceReset_reset : State.reset.deviceReset = State.reset := rfl

/-- The store as it leaves the factory holds no image. -/
theorem Store.not_holds_factory (img : PlanImage) : ¬ Store.factory.Holds img := by
  rintro (⟨n, hn⟩ | ⟨n, p, h | h⟩)
  · simp [Store.preset, Store.factory] at hn
  · simp [Store.factory] at h
  · simp [Store.factory] at h

/-- The empty plan is valid, beside a store without images (R2, R16). -/
theorem State.validityLaw_reset : State.reset.ValidityLaw := by
  refine State.validityLaw_of_still ⟨fun k => ?_, fun i j _ hi => ?_⟩ (fun img h => absurd h (Store.not_holds_factory img)) fun _ h => by
    cases h
  · simp [SlotRecord.Fits, Slot.rest, SlotRecord.rest]
  · simp [Slot.rest, SlotRecord.rest] at hi

/-- Settles O8: right after reset every block is at its rest value, which each law permits. -/
theorem resetSatisfiesEveryLaw : Obligations.ResetSatisfiesEveryLaw := by
  unfold Obligations.ResetSatisfiesEveryLaw
  have ramp := State.rampLaw_deviceReset State.reset
  have demand := State.demandLaw_deviceReset State.reset
  have governor := State.governorLaw_deviceReset State.reset
  obtain ⟨amplifier, air⟩ := State.outputLaw_deviceReset State.reset
  have heard := State.heardLaw_deviceReset State.reset
  have standing := State.standingLaw_deviceReset (s := State.reset) fun img h => absurd h (Store.not_holds_factory img)
  rw [State.deviceReset_reset] at ramp demand governor amplifier air heard standing
  obtain ⟨selection, fallback, content, level⟩ := State.reset.heardLaw_iff.mp heard
  obtain ⟨rest, boot, drain, read⟩ := State.reset.standingLaw_iff.mp standing
  obtain ⟨port, waiting⟩ := State.reset.portLaws_iff.mp fun p => by rw [State.port_reset]; exact PortState.lawful_rest
  exact ⟨amplifier, ramp, demand, demand.holdLaw, air, governor, governor.grantLaw, State.queueLaw_deviceReset State.reset, port,
    waiting, level, selection, fallback, content, State.validityLaw_reset, State.TripLaw.of_empty rfl, rest, boot, drain, read⟩

end Sys2Proof.Machine
end

section
/-! PROOF. Queued commands (R149, R151, R170): the frame of each, its check of form, and its execution at a port that answers at once. -/

namespace Sys2Proof.Machine

/-! ## The frame of a queued command -/

/-- A queued command is its frame delivered to its port. -/
theorem exec_queued {c : Instr} {p : Port} {code : Byte} {b : Body} (h : queuedForm c = some (p, code, b)) (s : State) :
    exec c s = .next (s.deliver p ⟨code, keptBody b⟩) := by
  cases c with
  | submitChange x =>
    cases x with
    | single =>
      simp only [queuedForm, Option.some.injEq, Prod.mk.injEq] at h
      obtain ⟨rfl, rfl, rfl⟩ := h
      rfl
    | together => simp [queuedForm] at h
  | unknown | readSlot | readPlan | readTransmitter | readFeeds | readOutcomes | readEvents | readStore | setEventMask | setPeerFlags |
      setSilence | scanRange | scanNext | savePreset | erasePreset | setBoot =>
    simp only [queuedForm, Option.some.injEq, Prod.mk.injEq] at h
    obtain ⟨rfl, rfl, rfl⟩ := h
    rfl
  | _ => simp [queuedForm] at h

/-- The commands that stand in the command queue in their right form: neither NOP nor urgent. -/
def Command.Queued : Command → Prop
  | .nop => False
  | .holdOutput => False
  | .releaseOutput => False
  | .purgeChanges => False
  | .portClear => False
  | _ => True

theorem commandOfCode_codeOf (c : Command) : commandOfCode (codeOf c) = some c := by
  cases c <;> rfl

theorem codeOf_listed {code : Byte} {c : Command} (h : commandOfCode code = some c) : code ∈ commandCodes := by
  rw [codeOf_of_commandOfCode h]
  cases c <;> decide

/-- The code of a queued command is that of a queued command of the table, or of none. -/
theorem queuedForm_code {c : Instr} {p : Port} {code : Byte} {b : Body} (h : queuedForm c = some (p, code, b))
    (hw : c.wellFormed = true) : b.wellFormed = true ∧ ∀ k, commandOfCode code = some k → k.Queued := by
  have known : ∀ k : Command, k.Queued → ∀ j, commandOfCode (codeOf k) = some j → j.Queued := fun k hk j hj => by
    rw [commandOfCode_codeOf] at hj
    obtain rfl := Option.some.inj hj
    exact hk
  cases c with
  | submitChange x =>
    cases x with
    | single =>
      simp only [queuedForm, Option.some.injEq, Prod.mk.injEq] at h
      obtain ⟨rfl, rfl, rfl⟩ := h
      exact ⟨hw, known .submitChange trivial⟩
    | together => simp [queuedForm] at h
  | unknown q d e =>
    simp only [queuedForm, Option.some.injEq, Prod.mk.injEq] at h
    obtain ⟨rfl, rfl, rfl⟩ := h
    obtain ⟨hc, hb⟩ := Bool.and_eq_true_iff.mp hw
    refine ⟨hb, fun k hk => absurd (codeOf_listed hk) (by simpa using hc)⟩
  | readSlot | readPlan | readTransmitter | readFeeds | readOutcomes | readEvents | readStore | setEventMask | setPeerFlags |
      setSilence | scanRange | scanNext | savePreset | erasePreset | setBoot =>
    simp only [queuedForm, Option.some.injEq, Prod.mk.injEq] at h
    obtain ⟨rfl, rfl, rfl⟩ := h
    exact ⟨hw, fun j hj => by obtain rfl := Option.some.inj hj; trivial⟩
  | _ => simp [queuedForm] at h

theorem code_ne_zero_of_queued {code : Byte} (h : ∀ k, commandOfCode code = some k → k.Queued) : code ≠ 0 := by
  rintro rfl
  exact h .nop rfl

/-- A frame of no command, or of a queued one, is not urgent. -/
theorem urgentOfFrame_of_queued {f : Frame} (h : ∀ k, commandOfCode f.code = some k → k.Queued) : urgentOfFrame f = none := by
  unfold urgentOfFrame
  split
  · exact False.elim (h .holdOutput ‹_›)
  · exact False.elim (h .releaseOutput ‹_›)
  · exact False.elim (h .purgeChanges ‹_›)
  · exact False.elim (h .portClear ‹_›)
  · rfl

/-- A body that is a frame's is kept whole. -/
theorem keptBody_of_wellFormed {b : Body} (h : b.wellFormed = true) : keptBody b = b := by
  simp only [Body.wellFormed, Bool.and_eq_true, decide_eq_true_eq] at h
  simp only [keptBody, List.take_of_length_le h.1, List.take_of_length_le h.2]

/-- A queued command at a port that answers at once: what its frame does, then its one response. -/
theorem exec_ready {c : Instr} {p : Port} {code : Byte} {b : Body} {s : State} (hr : s.Ready p)
    (h : queuedForm c = some (p, code, b)) (hw : c.wellFormed = true) :
    exec c s = .next ((s.perform p ⟨code, b⟩).2.answered p (s.perform p ⟨code, b⟩).1.1 code (s.perform p ⟨code, b⟩).1.2) := by
  obtain ⟨hb, hq⟩ := queuedForm_code h hw
  rw [exec_queued h, keptBody_of_wellFormed hb]
  exact congrArg _ (State.deliver_ready hr (code_ne_zero_of_queued hq) (urgentOfFrame_of_queued hq))

/-! ## The check of form (R170) -/

theorem State.perform_unknown {s : State} {p : Port} {f : Frame} (h : commandOfCode f.code = none) :
    s.perform p f = ((.unknown, []), s) := by
  rw [State.perform, h]

theorem State.perform_passed {s : State} {p : Port} {f : Frame} {c : Command} (h : commandOfCode f.code = some c)
    (hf : formPasses c f.body = true) : s.perform p f = s.act p c f.body.payload := by
  rw [State.perform, h]
  exact if_pos hf

theorem State.perform_failed {s : State} {p : Port} {f : Frame} {c : Command} (h : commandOfCode f.code = some c)
    (hf : formPasses c f.body = false) : s.perform p f = ((.malformed, []), s) := by
  rw [State.perform, h]
  exact if_neg (by simp [hf])

theorem formPasses_of_short {c : Command} {b : Body} (h : b.payload.length < b.declared.toNat) : formPasses c b = false := by
  simp [formPasses, lengthFits, deliveredShort, h]

theorem formPasses_of_length {c : Command} {b : Body} (hc : c ≠ .submitChange) (h : payloadLength c ≠ some b.declared.toNat) :
    formPasses c b = false := by
  simp [formPasses, lengthFits, hc, h]

theorem slotOfByte_of_lt {b : Byte} (h : 15 < b.toNat) : slotOfByte b = none := by
  rw [slotOfByte, dif_neg (by omega)]

theorem presetOfByte_of_lt {b : Byte} (h : 3 < b.toNat) : presetOfByte b = none := by
  rw [presetOfByte, dif_neg (by omega)]

/-- A form fault is answered MALFORMED by the check of length, or by the command that meets the argument (R170). -/
theorem State.perform_formFault {s : State} {p : Port} {f : Frame} {c : Command} (h : commandOfCode f.code = some c)
    (hf : FormFault c f.body) : s.perform p f = ((.malformed, []), s) := by
  cases hp : formPasses c f.body with
  | false => exact State.perform_failed h hp
  | true =>
    rw [State.perform_passed h hp]
    have urgent : payloadLength c = none → c ≠ .submitChange → s.act p c f.body.payload = ((.malformed, []), s) := fun hn hc => by
      simp [formPasses_of_length hc (b := f.body) (by simp [hn])] at hp
    rcases hf with hs | ⟨hc, hl⟩ | ⟨rfl, hb⟩ | ⟨rfl, hb⟩ | ⟨rfl | rfl, hb⟩ | ⟨rfl, hb, hn⟩ | rfl | rfl | rfl | rfl
    · simp [formPasses_of_short hs] at hp
    · simp [formPasses_of_length hc hl] at hp
    · simp only [State.act, State.doReadSlot, slotOfByte_of_lt hb]
    · rcases hb with hb | hb
      · simp only [State.act, State.doScanRange, slotOfByte_of_lt hb]
      · simp only [State.act, State.doScanRange, slotOfByte_of_lt hb]
        split
        · simp at *
        · rfl
    · simp only [State.act, State.doSave, presetOfByte_of_lt hb]
    · simp only [State.act, State.doErase, presetOfByte_of_lt hb]
    · simp only [State.act, State.doSetBoot, bootOfByte, absentByte, if_neg hn, presetOfByte_of_lt hb, Option.map_none]
    · exact urgent rfl (by simp)
    · exact urgent rfl (by simp)
    · exact urgent rfl (by simp)
    · exact urgent rfl (by simp)

/-- Settles O52: a code of no command and a form fault are answered before anything acts. -/
theorem formFaultsAreAnsweredAndActOnNothing : Obligations.FormFaultsAreAnsweredAndActOnNothing := by
  unfold Obligations.FormFaultsAreAnsweredAndActOnNothing
  refine ⟨fun s p f => ⟨State.perform_unknown, fun c hc hf => State.perform_formFault hc hf⟩, fun s p code b hr hw => ?_,
    fun s c k p code b hr hq hw hc hf => ?_⟩
  · have unknown : commandOfCode code = none := Option.eq_none_iff_forall_ne_some.mpr fun k hk =>
      absurd (codeOf_listed hk) (by simpa using (Bool.and_eq_true_iff.mp hw).1)
    rw [exec_ready hr (c := .unknown p code b) rfl hw, State.perform_unknown unknown]
  · rw [exec_ready hr hq hw, State.perform_formFault hc hf]

end Sys2Proof.Machine
end

section
/-! PROOF. What the queued commands do at a port that answers at once (O46, O53 to O57). -/

namespace Sys2Proof.Machine

/-- A queued command in its right form at a port that answers at once: what the command does, then its one response. -/
theorem exec_acts {c : Instr} {k : Command} {p : Port} {code : Byte} {b : Body} {s : State} (hr : s.Ready p)
    (h : queuedForm c = some (p, code, b)) (hw : c.wellFormed = true) (hc : commandOfCode code = some k)
    (hf : formPasses k b = true) :
    exec c s = .next ((s.act p k b.payload).2.answered p (s.act p k b.payload).1.1 code (s.act p k b.payload).1.2) := by
  rw [exec_ready hr h hw, State.perform_passed hc hf]

/-! ## Settings (R156, R157, R160, R163) -/

theorem PortState.writeMask_eq (q : PortState) (x y : Byte) :
    q.writeMask (word16At [x, y] 0) = { q with mask := (x ++ y).setWidth 9 } := by
  have : (word16At [x, y] 0).extractLsb' 0 9 = (x ++ y).setWidth 9 := BitVec.setWidth_eq_extractLsb' (by decide) |>.symm
  rw [PortState.writeMask, this]

theorem State.act_setPeer_same {s : State} {p : Port} {x : Byte} (h : (s.port p).peer0 = x.getLsbD 0 ∧ (s.port p).peer1 = x.getLsbD 1) :
    s.act p .setPeerFlags [x] = ((.ok, []), s) := by
  have same : (s.modPort p fun q => { q with peer0 := x.getLsbD 0, peer1 := x.getLsbD 1 }) = s :=
    State.modPort_of_eq _ _ _ (by rw [← h.1, ← h.2])
  show ((ResponseCode.ok, []), if (s.port p).peer0 = x.getLsbD 0 ∧ (s.port p).peer1 = x.getLsbD 1 then
    s.modPort p fun q => { q with peer0 := x.getLsbD 0, peer1 := x.getLsbD 1 } else _) = _
  rw [if_pos h, same]

theorem State.act_setPeer_moved {s : State} {p : Port} {x : Byte}
    (h : ¬ ((s.port p).peer0 = x.getLsbD 0 ∧ (s.port p).peer1 = x.getLsbD 1)) :
    s.act p .setPeerFlags [x] =
      ((.ok, []), (s.modPort p fun q => { q with peer0 := x.getLsbD 0, peer1 := x.getLsbD 1 }).latch (otherPort p) .peer) := by
  show ((ResponseCode.ok, []), if (s.port p).peer0 = x.getLsbD 0 ∧ (s.port p).peer1 = x.getLsbD 1 then _ else
    (s.modPort p fun q => { q with peer0 := x.getLsbD 0, peer1 := x.getLsbD 1 }).latch (otherPort p) .peer) = _
  rw [if_neg h]

theorem PortState.writeSilence_toNat (q : PortState) (x : Byte) :
    q.writeSilence x.toNat =
      { q with
        silenceTime := x.toNat
        silenceTimer := if x = 0 ∨ q.period.isSome = true then none else some 0 } := by
  have : x.toNat = 0 ↔ x = 0 := by rw [← BitVec.toNat_inj]; rfl
  simp only [PortState.writeSilence, this]

theorem State.act_scanRange (s : State) (p : Port) (first last : SlotIx) :
    s.act p .scanRange [BitVec.ofNat 8 first.val, BitVec.ofNat 8 last.val] =
      ((.ok, []), s.modPort p fun q => { q with scanFirst := first, scanLast := last, scanPtr := first }) := by
  have h0 : slotOfByte (byteAt [BitVec.ofNat 8 first.val, BitVec.ofNat 8 last.val] 0) = some first := slotOfByte_ofNat first
  have h1 : slotOfByte (byteAt [BitVec.ofNat 8 first.val, BitVec.ofNat 8 last.val] 1) = some last := slotOfByte_ofNat last
  simp only [State.act, State.doScanRange, h0, h1]

/-- Settles O57: each setting is written by its own command, and answered OK. -/
theorem settingsAreWrittenAtExecution : Obligations.SettingsAreWrittenAtExecution := by
  unfold Obligations.SettingsAreWrittenAtExecution
  intro s p x y hr
  refine ⟨?mask, fun h => ?same, fun h => ?moved, ?silence, fun first last => ?range⟩
  case mask =>
    rw [exec_acts hr (c := .setEventMask p ⟨2, [x, y]⟩) rfl rfl rfl rfl]
    simp only [State.act, State.doSetMask, PortState.writeMask_eq]
  case same =>
    rw [exec_acts hr (c := .setPeerFlags p ⟨1, [x]⟩) rfl rfl rfl rfl, State.act_setPeer_same h]
  case moved =>
    rw [exec_acts hr (c := .setPeerFlags p ⟨1, [x]⟩) rfl rfl rfl rfl, State.act_setPeer_moved h]
    rfl
  case silence =>
    rw [exec_acts hr (c := .setSilence p ⟨1, [x]⟩) rfl rfl rfl rfl]
    have : byteAt [x] 0 = x := rfl
    simp only [State.act, State.doSetSilence, this, PortState.writeSilence_toNat]
  case range =>
    rw [exec_acts hr (c := .scanRange p ⟨2, [BitVec.ofNat 8 first.val, BitVec.ofNat 8 last.val]⟩) rfl rfl rfl rfl,
      State.act_scanRange]

/-! ## The store's commands (R136 to R138) -/

theorem State.act_save (s : State) (p : Port) (n : PresetIx) :
    s.act p .savePreset [BitVec.ofNat 8 n.val] = s.doStore p (.save n) := by
  have h : presetOfByte (byteAt [BitVec.ofNat 8 n.val] 0) = some n := presetOfByte_ofNat n
  simp only [State.act, State.doSave, h]

theorem State.act_erase (s : State) (p : Port) (n : PresetIx) :
    s.act p .erasePreset [BitVec.ofNat 8 n.val] = s.doStore p (.erase n) := by
  have h : presetOfByte (byteAt [BitVec.ofNat 8 n.val] 0) = some n := presetOfByte_ofNat n
  simp only [State.act, State.doErase, h]

theorem bootOfByte_ofNat (n : PresetIx) : bootOfByte (BitVec.ofNat 8 n.val) = some (some n) := by
  have : BitVec.ofNat 8 n.val ≠ absentByte := by revert n; decide
  rw [bootOfByte, if_neg this, presetOfByte_ofNat, Option.map_some]

theorem State.act_setBoot (s : State) (p : Port) {x : Byte} {sel : Option PresetIx} (h : bootOfByte x = some sel) :
    s.act p .setBoot [x] = s.doStore p (.writeBoot sel) := by
  have h : bootOfByte (byteAt [x] 0) = some sel := h
  simp only [State.act, State.doSetBoot, h]

theorem State.doStore_inUse {s : State} {op : PortOp} (h : op.inUse s.engine = true) (p : Port) :
    s.doStore p op = ((.presetInUse, []), s) := by
  rw [State.doStore, State.storeCommand_eq, if_pos h]

theorem State.doStore_busy {s : State} {op : PortOp} (h : op.inUse s.engine = false)
    (hb : s.store.activity ≠ .idle ∨ s.resetHeld = true) (p : Port) : s.doStore p op = ((.storeBusy, []), s) := by
  rw [State.doStore, State.storeCommand_eq, if_neg (by simp [h]), if_neg]
  rintro ⟨ha, hr⟩
  rcases hb with hb | hb
  · exact hb ha
  · simp [hr] at hb

theorem State.doStore_starts {s : State} {op : PortOp} (h : op.inUse s.engine = false) (ha : s.store.activity = .idle)
    (hr : s.resetHeld = false) (p : Port) :
    s.doStore p op =
      ((.ok, []), { s with store := s.store.begin (op.firstPhase s.planImage p).1 (op.firstPhase s.planImage p).2 }) := by
  rw [State.doStore, State.storeCommand_eq, if_neg (by simp [h]), if_pos ⟨ha, hr⟩]

/-- Settles O46: the store answers by the first test of R136 that applies, and moves where it answers OK. -/
theorem storeCommandStartsOrIsTurnedAway : Obligations.StoreCommandStartsOrIsTurnedAway := by
  unfold Obligations.StoreCommandStartsOrIsTurnedAway
  intro s p n hr
  have save := exec_acts hr (c := .savePreset p ⟨1, [BitVec.ofNat 8 n.val]⟩) (k := .savePreset) rfl rfl rfl rfl
  have erase := exec_acts hr (c := .erasePreset p ⟨1, [BitVec.ofNat 8 n.val]⟩) (k := .erasePreset) rfl rfl rfl rfl
  have boot := exec_acts hr (c := .setBoot p ⟨1, [BitVec.ofNat 8 n.val]⟩) (k := .setBoot) rfl rfl rfl rfl
  have noBoot := exec_acts hr (c := .setBoot p ⟨1, [0xFF]⟩) (k := .setBoot) rfl rfl rfl rfl
  simp only [State.act_save, State.act_erase, State.act_setBoot s p (bootOfByte_ofNat n),
    State.act_setBoot s p (show bootOfByte 0xFF = some none from rfl)] at save erase boot noBoot
  have free : ∀ sel, PortOp.inUse (.writeBoot sel) s.engine = false := fun _ => rfl
  refine ⟨fun hu => ⟨?_, ?_⟩, fun hu hb => ⟨?_, ?_⟩, fun hu ha hh => ⟨?_, ?_⟩, fun hb => ⟨?_, ?_⟩, fun ha hh => ⟨?_, ?_⟩⟩
  · rw [save, State.doStore_inUse (op := .save n) hu]
  · rw [erase, State.doStore_inUse (op := .erase n) hu]
  · rw [save, State.doStore_busy (op := .save n) hu hb]
  · rw [erase, State.doStore_busy (op := .erase n) hu hb]
  · rw [save, State.doStore_starts (op := .save n) hu ha hh]
    rfl
  · rw [erase, State.doStore_starts (op := .erase n) hu ha hh]
    rfl
  · rw [boot, State.doStore_busy (free _) hb]
  · rw [noBoot, State.doStore_busy (free _) hb]
  · rw [boot, State.doStore_starts (free _) ha hh]
    rfl
  · rw [noBoot, State.doStore_starts (free _) ha hh]
    rfl

end Sys2Proof.Machine
end

section
/-! PROOF. The reports of the read commands at a port that answers at once (R165, R172 to R174). -/

namespace Sys2Proof.Machine

/-! ## READ_PLAN, READ_TRANSMITTER, READ_FEEDS, READ_OUTCOMES (R173, R174) -/

theorem State.tripAgeAt_eq (s : State) (i : Nat) :
    s.tripAgeAt i = ((s.out.trips[i]?).map fun time => min 599 ((s.now - time) / 1000)).getD 0 := by
  unfold State.tripAgeAt
  cases s.out.trips[i]? <;> rfl

theorem State.slotValues_sum (s : State) (f : Slot → Nat) :
    (s.slotValues f).sum = ((List.finRange 16).map fun k : SlotIx => f (s.slot k)).sum := by
  rw [State.slotValues, slotIndices_eq_finRange]

theorem State.members_eq (s : State) : s.members = (s.slotValues fun x => if x.ramp.state = .off then 0 else 1).sum := by
  refine congrArg List.sum (List.map_congr_left fun k _ => ?_)
  by_cases h : (s.slot k).ramp.state = .off <;> simp [Slot.transmitting, h]

theorem TxState.targetByte_eq (t : TxState) :
    t.targetByte =
      match t with
      | .closing .offAir => (0 : Byte)
      | .closing .standby => 4
      | _ => 0xFF := by
  rcases t with _ | _ | _ | (_ | _) | _ | _ | _ <;> rfl

theorem byteOfBits_two (a b : Bool) : byteOfBits [a, b] = (if a then 1 else 0) + (if b then 2 else 0) := by
  cases a <;> cases b <;> rfl

theorem byteOfBits_four (a b c d : Bool) :
    byteOfBits [a, b, c, d] = (if a then 1 else 0) + (if b then 2 else 0) + (if c then 4 else 0) + (if d then 8 else 0) := by
  revert a b c d; decide

theorem Receiver.bytes_eq (r : Receiver) :
    r.bytes =
      match r.link with
      | .search => [0, BitVec.ofNat 8 r.good]
      | .locked => [1, BitVec.ofNat 8 r.miss] := by
  rcases r with ⟨_ | _, _, _⟩ <;> rfl

theorem OutcomeRecord.bytes_eq (r : OutcomeRecord) :
    r.bytes =
      [r.ticket,
        (match r.kind with
        | .assignSlot => 1
        | .releaseSlot => 2
        | .setPower => 3
        | .setThresholds => 4
        | .setSlotEnable => 5
        | .setPlanParams => 6
        | .setTransmit => 7
        | .loadPreset => 8
        | .clearLockout => 9),
        ((r.argument.map (BitVec.ofNat 8)).getD 0xFF),
        (match r.code with
        | .applied => 1
        | .stale => 2
        | .overlap => 3
        | .outOfBand => 4
        | .badWidth => 5
        | .emptySlot => 6
        | .presetInvalid => 7
        | .storeBusy => 8
        | .wrongState => 9
        | .purged => 10)] ++ bytes16 (r.generation.getD 0) := by
  obtain ⟨ticket, kind, argument, code, generation⟩ := r
  cases argument <;> rfl

/-- Settles O53: the four reads answer with the state as it stands. -/
theorem readsReportAndMoveNothing : Obligations.ReadsReportAndMoveNothing := by
  unfold Obligations.ReadsReportAndMoveNothing
  intro s p hr
  refine ⟨?plan, fun age total hage htotal => ?transmitter, ?feeds, ?outcomes⟩
  case plan =>
    rw [exec_acts hr (c := .readPlan p ⟨0, []⟩) rfl rfl rfl rfl]
    cases he : s.engine <;> simp only [State.act, State.planReport, he] <;> rfl
  case transmitter =>
    rw [exec_acts hr (c := .readTransmitter p ⟨0, []⟩) rfl rfl rfl rfl]
    have transmitting : s.members = total fun x => if x.ramp.state = .off then 0 else 1 := by
      rw [htotal, State.members_eq, State.slotValues_sum]
    have requested : s.demand = total fun x => if x.ramp.state = .off then 0 else x.record.power := by
      rw [htotal, State.demand_eq_sum_power]
    have granted : s.grantSum = total Slot.grant := by
      rw [htotal, State.grantSum, State.slotValues_sum]
    have radiated : s.shareSum = total Slot.share := by
      rw [htotal, State.shareSum, State.slotValues_sum]
    have ages : ∀ i, s.tripAgeAt i = age i := fun i => by rw [hage, State.tripAgeAt_eq]
    simp only [State.act, State.transmitterReport, transmitting, requested, granted, radiated, ages, TxState.targetByte_eq,
      byteOfBits_two]
    cases s.out.quiet <;> rfl
  case feeds =>
    rw [exec_acts hr (c := .readFeeds p ⟨0, []⟩) rfl rfl rfl rfl]
    simp only [State.act, State.feedsReport, Receiver.bytes_eq, List.flatMap_cons, List.flatMap_nil, List.append_nil]
    rfl
  case outcomes =>
    rw [exec_acts hr (c := .readOutcomes p ⟨0, []⟩) rfl rfl rfl rfl]
    simp only [State.act, PortState.outcomesReport, funext OutcomeRecord.bytes_eq]
    rfl

/-! ## READ_SLOT and SCAN_NEXT (R160, R172) -/

theorem feedByte_eq (f : Feed) : feedByte f = if f = .b then 1 else 0 := by
  cases f <;> rfl

theorem LossAction.byte_eq (a : LossAction) : a.byte = if a = .pilot then 1 else 0 := by
  cases a <;> rfl

theorem Quality.byte_eq (q : Quality) : q.byte = if q = .good then 1 else 0 := by
  cases q <;> rfl

theorem Content.byte_eq (c : Content) : c.byte = if c = .pilot then 1 else 0 := by
  cases c <;> rfl

theorem lastPathByte_eq (n : PathName) : lastPathByte n = if n = .fallback then 1 else 0 := by
  cases n <;> rfl

theorem State.slotReport_length (s : State) (k : SlotIx) : (s.slotReport k).length = 56 := by
  unfold State.slotReport SlotRecord.bytes
  cases h : (s.slot k).record.fallback <;> simp [h, PathState.bytes, bytes16, bytes32, bytesOfNat16, bytesOfInt32]

/-- Settles O54: the report of a slot, by READ_SLOT and by SCAN_NEXT at the pointer. -/
theorem slotReportsAndTheScan : Obligations.SlotReportsAndTheScan := by
  unfold Obligations.SlotReportsAndTheScan
  intro s p k hr
  refine ⟨s.slotReport k, s.slotReport_length k, ?report, ?read, fun hk => ?scan⟩
  case report =>
    unfold State.slotReport
    generalize s.slot k = x
    have absent : [0] ++ bytesOfInt32 0 = ([0, 0, 0, 0, 0] : List Byte) := rfl
    simp only [SlotRecord.bytes, PathState.bytes, byteOfBits_two, byteOfBits_four, feedByte_eq, LossAction.byte_eq,
      Quality.byte_eq, Content.byte_eq, lastPathByte_eq, absent, byteOfNat, byteOfInt, List.append_assoc]
    cases x.record.fallback <;> rfl
  case read =>
    rw [exec_acts hr (c := .readSlot p ⟨1, [BitVec.ofNat 8 k.val]⟩) rfl rfl rfl rfl]
    have h : slotOfByte (byteAt [BitVec.ofNat 8 k.val] 0) = some k := slotOfByte_ofNat k
    simp only [State.act, State.doReadSlot, h]
  case scan =>
    rw [exec_acts hr (c := .scanNext p ⟨0, []⟩) rfl rfl rfl rfl, ← hk]
    rfl

/-! ## READ_EVENTS (R165, R174) -/

/-- The cause whose latch stands at a bit. -/
theorem Cause.exists_number {i : Nat} (h : i < 9) : ∃ c : Cause, c.number = i + 1 := by
  have : ∀ j : Fin 9, ∃ c ∈ causes, c.number = j.val + 1 := by decide
  obtain ⟨c, -, hc⟩ := this ⟨i, h⟩
  exact ⟨c, hc⟩

/-- The causes stand in the order of their numbers. -/
theorem causes_split (c : Cause) :
    causes = causes.take (c.number - 1) ++ c :: causes.drop c.number ∧ ∀ d ∈ causes.take (c.number - 1), d.number < c.number := by
  cases c <;> decide

theorem Cause.source_iff (c : Cause) : c = .source ↔ c.number - 1 = 4 := by
  cases c <;> decide

theorem PortState.highest_none {q : PortState} (h : q.unmasked = 0) : q.highest = none := by
  simp [PortState.highest, h]

theorem PortState.highest_some {q : PortState} {c : Cause} (h : q.unmasked.getLsbD (c.number - 1) = true)
    (hlow : ∀ j, j < c.number - 1 → q.unmasked.getLsbD j = false) : q.highest = some c := by
  obtain ⟨split, below⟩ := causes_split c
  refine List.find?_eq_some_iff_append.mpr ⟨h, _, _, split, fun d hd => ?_⟩
  have := below d hd
  have := d.number_pos
  simp [hlow (d.number - 1) (by omega)]

theorem State.modPort_congr {s : State} {p : Port} {f g : PortState → PortState} (h : f (s.port p) = g (s.port p)) :
    s.modPort p f = s.modPort p g := by
  have h : f (s.ports.at p) = g (s.ports.at p) := h
  unfold State.modPort
  rw [h]

/-- Settles O55: the report of the latches, then the clearing of the highest cause. -/
theorem readEventsClearsTheHighestCause : Obligations.ReadEventsClearsTheHighestCause := by
  unfold Obligations.ReadEventsClearsTheHighestCause
  intro s p hr
  have acts := exec_acts hr (c := .readEvents p ⟨0, []⟩) (k := .readEvents) rfl rfl rfl rfl
  refine ⟨(s.port p).unmasked, rfl, fun h => ?none, fun i hi h hlow => ?some⟩
  case none =>
    have hn := PortState.highest_none h
    have same : s.modPort p PortState.clearHighest = s :=
      State.modPort_of_eq _ _ _ (by simp only [PortState.clearHighest, hn])
    simp only [acts, State.act, State.doReadEvents, same, PortState.eventsReport, hn, h]
    rfl
  case some =>
    obtain ⟨c, hc⟩ := Cause.exists_number hi
    obtain rfl : i = c.number - 1 := by omega
    have hs := PortState.highest_some h hlow
    have number : c.number - 1 + 1 = c.number := by omega
    rw [acts, number]
    simp only [State.act, State.doReadEvents, PortState.eventsReport, hs]
    refine congrArg (fun t => Host.Outcome.next (State.answered t p _ _ _)) (State.modPort_congr ?_)
    simp only [PortState.clearHighest, hs, Cause.source_iff]
    rfl

/-! ## READ_STORE (R141, R174) -/

theorem Store.touch_eq (st : Store) (p : Port) :
    st.touch p = { st with toggle := st.toggle.put p (if st.activity = .idle then st.toggle.at p else !st.toggle.at p) } := by
  unfold Store.touch
  split <;> simp

/-- Settles O56: the store as it stands, and the issuing port's toggle bit after the inversion. -/
theorem readStoreInvertsTheToggle : Obligations.ReadStoreInvertsTheToggle := by
  unfold Obligations.ReadStoreInvertsTheToggle
  intro s p hr
  refine ⟨if s.store.activity = .idle then s.store.toggle.at p else !s.store.toggle.at p, presetByte, portByte,
    fun h => if_pos h, fun h => if_neg h, rfl, fun _ => rfl, rfl, rfl, ?_⟩
  rw [exec_acts hr (c := .readStore p ⟨0, []⟩) rfl rfl rfl rfl]
  simp only [State.act, State.doReadStore, Store.touch_eq]
  generalize (if s.store.activity = .idle then s.store.toggle.at p else !s.store.toggle.at p) = bit
  have result : lastResultBytes s.store.lastResult =
      match s.store.lastResult with
      | none => [0, 0, 0, 0, 0]
      | some ⟨.save n, q, done⟩ => [1, 1, BitVec.ofNat 8 n.val, portByte q, if done then 0 else 1]
      | some ⟨.erase n, q, done⟩ => [1, 2, BitVec.ofNat 8 n.val, portByte q, if done then 0 else 1]
      | some ⟨.writeBoot sel, q, done⟩ => [1, 3, presetByte sel, portByte q, if done then 0 else 1] := by
    rcases s.store.lastResult with _ | ⟨_ | _ | _, _, _ | _⟩ <;> rfl
  have presets : List.finRange 4 = [0, 1, 2, 3] := rfl
  rw [Store.report, result, Pair.at_put_self, presets]
  cases s.store.activity <;> rfl

end Sys2Proof.Machine
end

section
/-! PROOF. Submissions: the structural faults of a payload and the change that it spells (R25, R171), and the Change Queue's
answer (R26, R29). -/

namespace Sys2Proof.Machine

/-! ## The structural faults (R25, R171) -/

theorem kindOfByte_iff (b : Byte) (kind : ChangeKind) : kindOfByte b = some kind ↔ kindByte kind = b := by
  constructor
  · intro h
    unfold kindOfByte at h
    split_ifs at h with h1 h2 h3 h4 h5 h6 h7 h8 h9
    all_goals
      cases h
      subst b
      rfl
  · rintro rfl
    cases kind <;> rfl

theorem kindOfByte_none (b : Byte) : kindOfByte b = none ↔ ∀ kind, kindByte kind ≠ b := by
  simp only [Option.eq_none_iff_forall_ne_some, ne_eq, kindOfByte_iff]

theorem slotOfByte_none (b : Byte) : slotOfByte b = none ↔ 15 < b.toNat := by
  unfold slotOfByte
  split_ifs with h
  · exact iff_of_false (by simp) (by omega)
  · exact iff_of_true rfl (by omega)

theorem presetOfByte_none (b : Byte) : presetOfByte b = none ↔ 3 < b.toNat := by
  unfold presetOfByte
  split_ifs with h
  · exact iff_of_false (by simp) (by omega)
  · exact iff_of_true rfl (by omega)

theorem one_lt_toNat_iff (b : Byte) : 1 < b.toNat ↔ b ≠ 0 ∧ b ≠ 1 := by
  have h0 : b = 0 ↔ b.toNat = 0 := by rw [← BitVec.toNat_inj]; rfl
  have h1 : b = 1 ↔ b.toNat = 1 := by rw [← BitVec.toNat_inj]; rfl
  rw [Ne, Ne, h0, h1]
  omega

theorem feedOfByte_none (b : Byte) : feedOfByte b = none ↔ 1 < b.toNat := by
  rw [one_lt_toNat_iff]
  unfold feedOfByte
  split_ifs <;> simp_all

theorem lossActionOfByte_none (b : Byte) : lossActionOfByte b = none ↔ 1 < b.toNat := by
  rw [one_lt_toNat_iff]
  unfold lossActionOfByte
  split_ifs <;> simp_all

theorem fallbackOfBytes_none (w : List Byte) :
    fallbackOfBytes w = none ↔ (byteAt w 0).getLsbD 1 = true ∧ 1 < (byteAt w 7).toNat := by
  unfold fallbackOfBytes
  split_ifs with h
  · rw [Option.map_eq_none_iff, feedOfByte_none, h]
    simp
  · exact iff_of_false (by simp) fun hb => h hb.1

theorem recordOfBytes_none (w : List Byte) :
    recordOfBytes w = none ↔
      1 < (byteAt w 1).toNat ∨ 1 < (byteAt w 2).toNat ∨ ((byteAt w 0).getLsbD 1 = true ∧ 1 < (byteAt w 7).toNat) := by
  rw [← lossActionOfByte_none, ← feedOfByte_none, ← fallbackOfBytes_none]
  unfold recordOfBytes
  cases lossActionOfByte (byteAt w 1) <;> cases feedOfByte (byteAt w 2) <;> cases fallbackOfBytes w <;> simp

theorem byteAt_drop (w : List Byte) (n i : Nat) : byteAt (w.drop n) i = byteAt w (n + i) := by
  simp [byteAt, List.getD_eq_getElem?_getD]

/-- The faults of the argument bytes of a kind (R25, R171). -/
def ArgumentFault (w : List Byte) (kind : ChangeKind) : Prop :=
  ((kind = .assignSlot ∨ kind = .releaseSlot ∨ kind = .setPower ∨ kind = .setThresholds ∨ kind = .setSlotEnable) ∧
      15 < (byteAt w 2).toNat) ∨
    (kind = .loadPreset ∧ 3 < (byteAt w 2).toNat) ∨
      (kind = .assignSlot ∧
        (1 < (byteAt w 4).toNat ∨ 1 < (byteAt w 5).toNat ∨
          ((byteAt w 3).getLsbD 1 = true ∧ 1 < (byteAt w 10).toNat)))

theorem assignOfBytes_none (w : List Byte) :
    changeOfBytes .assignSlot w = none ↔ slotOfByte (byteAt w 0) = none ∨ recordOfBytes (w.drop 1) = none := by
  unfold changeOfBytes
  cases slotOfByte (byteAt w 0) <;> cases recordOfBytes (w.drop 1) <;> simp

theorem changeOfBytes_none (w : List Byte) (kind : ChangeKind) : changeOfBytes kind (w.drop 2) = none ↔ ArgumentFault w kind := by
  cases kind with
  | assignSlot =>
    rw [assignOfBytes_none, recordOfBytes_none, slotOfByte_none]
    simp only [ArgumentFault, byteAt_drop, List.drop_drop]
    simp
  | _ => simp [changeOfBytes, ArgumentFault, byteAt_drop, slotOfByte_none, presetOfByte_none]

theorem structuralFault_iff (w : List Byte) :
    StructuralFault w ↔
      (∀ kind, kindByte kind ≠ byteAt w 0) ∨
        ∃ kind, kindByte kind = byteAt w 0 ∧
          ((w.length ≠ argumentBytes kind + 2 ∧ w.length ≠ argumentBytes kind + 4) ∨ ArgumentFault w kind) := Iff.rfl

theorem kindByte_inj {j k : ChangeKind} (h : kindByte j = kindByte k) : j = k :=
  Option.some.inj (((kindOfByte_iff _ _).mpr h).symm.trans ((kindOfByte_iff _ _).mpr rfl))

theorem submittedOfPayload_of_kind {w : List Byte} {kind : ChangeKind} (h : kindOfByte (byteAt w 0) = some kind) :
    submittedOfPayload w =
      if w.length = argumentBytes kind + 2 then
        (changeOfBytes kind (w.drop 2)).map fun c => ⟨classOfByte (byteAt w 1), c, none⟩
      else if w.length = argumentBytes kind + 4 then
        (changeOfBytes kind (w.drop 2)).map fun c =>
          ⟨classOfByte (byteAt w 1), c, some (word16At w (argumentBytes kind + 2))⟩
      else none := by
  rw [submittedOfPayload, h]

theorem submittedOfPayload_none (w : List Byte) : submittedOfPayload w = none ↔ StructuralFault w := by
  rw [structuralFault_iff, ← kindOfByte_none]
  cases h : kindOfByte (byteAt w 0) with
  | none => simp [submittedOfPayload, h]
  | some kind =>
    have only : ∀ j, kindByte j = byteAt w 0 ↔ j = kind := fun j =>
      ⟨fun hj => kindByte_inj (hj.trans ((kindOfByte_iff _ _).mp h).symm), fun hj => hj ▸ (kindOfByte_iff _ _).mp h⟩
    simp only [only, exists_eq_left, submittedOfPayload_of_kind h, reduceCtorEq, false_or, ← changeOfBytes_none]
    split_ifs with h2 h4
    · simp [h2]
    · simp [h4]
    · simp [h2, h4]

/-- The bytes of a sound payload spell its change. -/
theorem submittedOfPayload_sound {kind cls : Byte} {args tail : List Byte} {m : Submitted} (ha : ArgumentBytes kind args m.change)
    (hc : ClassBit cls m.cls) (hg : GenerationBytes tail m.expected) :
    submittedOfPayload (kind :: cls :: (args ++ tail)) = some m := by
  obtain ⟨hk, hl, hm⟩ := ha.change tail
  have hw : kindOfByte (byteAt (kind :: cls :: (args ++ tail)) 0) = some m.change.kind := hk
  have hd : (kind :: cls :: (args ++ tail)).drop 2 = args ++ tail := rfl
  have hb : byteAt (kind :: cls :: (args ++ tail)) 1 = cls := rfl
  rw [submittedOfPayload_of_kind hw, hd, hm, hb, hc.class]
  rcases hg with ⟨rfl, he⟩ | ⟨g1, g0, rfl, he⟩
  · rw [if_pos (by simp [hl]), Option.map_some, ← he]
  · have field : word16At (kind :: cls :: (args ++ [g1, g0])) (argumentBytes m.change.kind + 2) = g1 ++ g0 := by
      simp [word16At, byteAt, ← hl, List.getD_eq_getElem?_getD]
    rw [if_neg (by simp [hl]), if_pos (by simp [hl]), Option.map_some, field, ← he]

/-- Settles O13: the faults of the form, and the change of a sound payload. -/
theorem structuralFaultsAreExactlyMalformed : Obligations.StructuralFaultsAreExactlyMalformed := by
  unfold Obligations.StructuralFaultsAreExactlyMalformed
  exact ⟨submittedOfPayload_none, fun _ _ _ _ _ => submittedOfPayload_sound⟩

/-! ## The answer of the Change Queue (R26, R29) -/

theorem State.submit_malformed {s : State} {w : List Byte} (h : submittedOfPayload w = none) (p : Port) :
    s.submit p w = ((.malformed, []), s.served p) := by
  rw [State.submit, h]

theorem State.submit_full {s : State} {w : List Byte} {m : Submitted} (h : submittedOfPayload w = some m)
    (hl : 8 ≤ s.changes.entries.length) (p : Port) : s.submit p w = ((.queueFull, []), s.served p) := by
  rw [State.submit, h]
  exact if_pos hl

theorem State.submit_accepted {s : State} {w : List Byte} {m : Submitted} (h : submittedOfPayload w = some m)
    (hl : s.changes.entries.length < 8) (p : Port) : s.submit p w = ((.accepted, [s.nextTicket]), (s.served p).accept p m) := by
  rw [State.submit, h]
  exact if_neg (by omega)

/-- The next ticket is the first from the counter's value on that is not held (R26). -/
theorem State.nextTicket_first {s : State} (h : s.changes.entries.length < 8) :
    ∃ n ≤ 8, s.nextTicket = s.changes.counter + BitVec.ofNat 8 n ∧ s.nextTicket ∉ s.heldTickets ∧
      ∀ j < n, s.changes.counter + BitVec.ofNat 8 j ∈ s.heldTickets := by
  have held : s.heldTickets.length ≤ 8 := by
    have inFlight : s.engine.tickets.length ≤ 1 := by cases s.engine <;> simp [Engine.tickets]
    rw [State.heldTickets_eq, List.length_append, List.length_map]
    omega
  obtain ⟨n, hn, ht, hf, hb⟩ := freeTicket_first s.heldTickets s.changes.counter (by omega)
  exact ⟨n, by omega, ht, by rw [State.nextTicket, ht]; exact hf, hb⟩

/-- Settles O12: one submission is answered by the queue; of two together the arbiter serves one first. -/
theorem submissionIsAnsweredByTheQueue : Obligations.SubmissionIsAnsweredByTheQueue := by
  unfold Obligations.SubmissionIsAnsweredByTheQueue
  refine ⟨fun s p b hr hw hl => ?single, fun s t a b => ⟨fun hs ht => ?aFirst, fun hs ht => ?bFirst⟩⟩
  case single =>
    have full : formPasses .submitChange b = true := by simp [formPasses, deliveredShort, hl]
    have acts := exec_acts hr (c := .submitChange (.single p b)) rfl hw rfl full
    simp only [State.act] at acts
    refine ⟨fun h => ?_, fun m h h8 => ?_, fun m h h8 => ?_⟩
    · rw [acts, State.submit_malformed h]
      rfl
    · rw [acts, State.submit_full h h8]
      rfl
    · obtain ⟨n, hn, ht, hf, hb⟩ := State.nextTicket_first h8
      refine ⟨n, s.nextTicket, hn, ht, hf, hb, ?_⟩
      rw [acts, State.submit_accepted h h8]
      rfl
  case aFirst =>
    obtain rfl := Host.Outcome.next.inj ht
    have first : s.servedFirst = .a := by rw [State.servedFirst, hs]; rfl
    simp only [exec, execSubmitChange, State.submissions, first]
  case bFirst =>
    obtain rfl := Host.Outcome.next.inj ht
    have first : s.servedFirst = .b := by rw [State.servedFirst, hs]; rfl
    simp only [exec, execSubmitChange, State.submissions, first]

end Sys2Proof.Machine
end

section
/-! PROOF. The hold set (R127, R128, R158), the entry into ON_AIR and the closing (R121, R123): what reforming every on-demand
condition and the quiet condition brings. -/

namespace Sys2Proof.Machine

/-! ## The on-demand conditions and the quiet condition formed anew -/

theorem State.reformAll_turnedUp {s : State} {k : SlotIx} (h : s.onDemand k = true) :
    TurnedUp s.wide.rampStep (s.slot k).ramp (s.reformAll.slot k).ramp := by
  rw [State.reformAll_slot_ramp, h]
  exact Ramp.react_true _ _

theorem State.reformAll_turnedDown {s : State} {k : SlotIx} (h : s.onDemand k ≠ true) :
    TurnedDown s.wide.rampStep (s.slot k).ramp (s.reformAll.slot k).ramp := by
  rw [State.reformAll_slot_ramp, Bool.eq_false_iff.mpr h]
  exact Ramp.react_false _ _

/-- The quiet condition formed: the timer runs exactly where it holds, from 0 or from where it stood (R122). -/
theorem State.formQuiet_forms (s : State) :
    (s.formQuiet.out.quiet.isSome = true ↔ s.formQuiet.Quiet) ∧
      ∀ ms, s.formQuiet.out.quiet = some ms → ms = s.out.quiet.getD 0 := by
  have same : s.formQuiet.Quiet ↔ s.Quiet := by
    simp only [State.Quiet, State.formQuiet_out, State.formQuiet_wide, State.slot_formQuiet, State.holdEmpty]
  rw [same, ← State.quiet_iff, State.formQuiet_out]
  cases s.quietCondition <;> simp

theorem State.formQuiet_none {s : State} (h : s.quietCondition = false) : s.formQuiet.out.quiet = none := by
  simp [h]

/-! ## The hold set (R127, R128) -/

/-- A port joins or leaves the hold set, before anything acts on it. -/
def State.heldBy (s : State) (p : Port) (v : Bool) : State := { s with out := { s.out with hold := s.out.hold.put p v } }

@[simp] theorem State.heldBy_slot (s : State) (p : Port) (v : Bool) (k : SlotIx) : (s.heldBy p v).slot k = s.slot k := rfl

@[simp] theorem State.heldBy_wide (s : State) (p : Port) (v : Bool) : (s.heldBy p v).wide = s.wide := rfl

@[simp] theorem State.heldBy_ports (s : State) (p : Port) (v : Bool) : (s.heldBy p v).ports = s.ports := rfl

@[simp] theorem State.heldBy_out (s : State) (p : Port) (v : Bool) : (s.heldBy p v).out = { s.out with hold := s.out.hold.put p v } := rfl

theorem State.setHold_same {s : State} {p : Port} {v : Bool} (h : (s.heldBy p v).holdEmpty = s.holdEmpty) :
    s.setHold p v = s.heldBy p v := if_pos h

theorem State.setHold_moved {s : State} {p : Port} {v : Bool} (h : (s.heldBy p v).holdEmpty ≠ s.holdEmpty) :
    s.setHold p v = (s.heldBy p v).reformAll.formQuiet := if_neg h

theorem State.setHold_cases (s : State) (p : Port) (v : Bool) :
    s.setHold p v = s.heldBy p v ∨ s.setHold p v = (s.heldBy p v).reformAll.formQuiet :=
  (em _).imp State.setHold_same State.setHold_moved

theorem State.setHold_ports (s : State) (p : Port) (v : Bool) : (s.setHold p v).ports = s.ports := by
  rcases s.setHold_cases p v with h | h <;> rw [h] <;> simp

/-- A port that joins or leaves moves the hold set and the quiet timer of the output, and nothing else of it. -/
theorem State.setHold_out (s : State) (p : Port) (v : Bool) :
    (s.setHold p v).out = { s.out with hold := s.out.hold.put p v, quiet := (s.setHold p v).out.quiet } := by
  rcases s.setHold_cases p v with h | h <;> rw [h] <;> simp

theorem State.holdEmpty_iff (s : State) (p : Port) : s.holdEmpty = true ↔ s.out.hold.at p = false ∧ s.out.hold.at (otherPort p) = false := by
  cases p <;> simp [State.holdEmpty, Pair.at, otherPort, and_comm]

theorem State.heldBy_holdEmpty_iff (s : State) (p : Port) (v : Bool) :
    (s.heldBy p v).holdEmpty = true ↔ v = false ∧ s.out.hold.at (otherPort p) = false := by
  rw [State.holdEmpty_iff _ p]
  simp [State.heldBy]

/-- A port that joins an empty hold set turns every slot down and stops the quiet timer. -/
theorem State.setHold_joined {s : State} (h : s.holdEmpty = true) (p : Port) :
    (s.setHold p true).out.quiet = none ∧ ∀ k, TurnedDown s.wide.rampStep (s.slot k).ramp ((s.setHold p true).slot k).ramp := by
  have held : (s.heldBy p true).holdEmpty ≠ true := by simp [State.heldBy_holdEmpty_iff]
  rw [State.setHold_moved (by rw [h]; exact held)]
  refine ⟨State.formQuiet_none ?_, fun k => ?_⟩
  · rw [← Bool.not_eq_true, State.quietCondition_iff]
    rw [(State.airFrame_reformAll _).holdEmpty]
    exact fun hq => held hq.2.2.1
  · have turned := State.reformAll_turnedDown (s := s.heldBy p true) (k := k)
      fun hd => held ((State.onDemand_iff _ k).mp hd).2.1
    rw [State.heldBy_wide, State.heldBy_slot] at turned
    rw [State.slot_formQuiet]
    exact turned

/-- A port that joins a hold set with a member changes the set alone. -/
theorem State.setHold_joined_held {s : State} (h : s.holdEmpty = false) (p : Port) : s.setHold p true = s.heldBy p true :=
  State.setHold_same (by rw [h, ← Bool.not_eq_true, State.heldBy_holdEmpty_iff]; simp)

/-- The last member that leaves the hold set turns up every slot that wants the air, and the quiet condition is formed. -/
theorem State.setHold_emptied {s : State} {p : Port} (hp : s.out.hold.at p = true) (ho : s.out.hold.at (otherPort p) = false) :
    (s.out.state = .onAir →
        ∀ k, ((s.slot k).Wants → TurnedUp s.wide.rampStep (s.slot k).ramp ((s.setHold p false).slot k).ramp) ∧
          (¬ (s.slot k).Wants → TurnedDown s.wide.rampStep (s.slot k).ramp ((s.setHold p false).slot k).ramp)) ∧
      ((s.setHold p false).out.quiet.isSome = true ↔ (s.setHold p false).Quiet) ∧
        ∀ ms, (s.setHold p false).out.quiet = some ms → ms = s.out.quiet.getD 0 := by
  have empty : (s.heldBy p false).holdEmpty = true := (State.heldBy_holdEmpty_iff _ _ _).mpr ⟨rfl, ho⟩
  have held : s.holdEmpty ≠ true := fun h => by simp [((State.holdEmpty_iff s p).mp h).1] at hp
  rw [State.setHold_moved (by rw [empty]; exact held.symm)]
  obtain ⟨runs, value⟩ := State.formQuiet_forms (s.heldBy p false).reformAll
  refine ⟨fun ha k => ⟨fun hw => ?_, fun hw => ?_⟩, runs, value⟩
  · have turned := State.reformAll_turnedUp (s := s.heldBy p false) (k := k) ((State.onDemand_iff _ k).mpr ⟨ha, empty, hw⟩)
    rw [State.heldBy_wide, State.heldBy_slot] at turned
    rw [State.slot_formQuiet]
    exact turned
  · have turned := State.reformAll_turnedDown (s := s.heldBy p false) (k := k)
      fun hd => hw ((State.onDemand_iff _ k).mp hd).2.2
    rw [State.heldBy_wide, State.heldBy_slot] at turned
    rw [State.slot_formQuiet]
    exact turned

/-- A port that was no member, or not the last one, changes the set alone. -/
theorem State.setHold_left {s : State} {p : Port} (h : s.out.hold.at p = false ∨ s.out.hold.at (otherPort p) = true) :
    s.setHold p false = s.heldBy p false := by
  refine State.setHold_same (Bool.eq_iff_iff.mpr ?_)
  rw [State.heldBy_holdEmpty_iff, State.holdEmpty_iff s p]
  rcases h with h | h <;> simp [h]

/-- Settles O45: the urgent commands of the hold set. -/
theorem holdSetMovesTheSlots : Obligations.HoldSetMovesTheSlots := by
  unfold Obligations.HoldSetMovesTheSlots
  refine fun s p => ⟨fun hu => ?hold, fun hu => ?release⟩
  case hold =>
    have frame := State.planFrame_setHold (s.releaseUrgent p) p true
    have out := State.setHold_out (s.releaseUrgent p) p true
    refine ⟨(s.releaseUrgent p).setHold p true, congrArg _ (if_pos hu), ?_, ?_, ?_, ?_, ?_, frame.samePlan, frame.generation,
      fun he => State.setHold_joined (s := s.releaseUrgent p) he p, fun he => ?_⟩
    · rw [State.port_congr (State.setHold_ports _ p true)]
      exact State.port_modPort_self _ _ _
    · rw [State.port_congr (State.setHold_ports _ p true)]
      exact State.port_modPort_other _ _ _
    · rw [out]; rfl
    · rw [out]; rfl
    · rw [out]; rfl
    · rw [State.setHold_joined_held (s := s.releaseUrgent p) he]
      exact ⟨rfl, rfl⟩
  case release =>
    have frame := State.planFrame_setHold (s.releaseUrgent p) p false
    have out := State.setHold_out (s.releaseUrgent p) p false
    refine ⟨(s.releaseUrgent p).setHold p false, congrArg _ (if_pos hu), ?_, ?_, ?_, ?_, ?_, frame.samePlan, frame.generation,
      fun hp ho => (State.setHold_emptied (s := s.releaseUrgent p) hp ho).1,
      fun hp ho => (State.setHold_emptied (s := s.releaseUrgent p) hp ho).2, fun h => ?_⟩
    · rw [State.port_congr (State.setHold_ports _ p false)]
      exact State.port_modPort_self _ _ _
    · rw [State.port_congr (State.setHold_ports _ p false)]
      exact State.port_modPort_other _ _ _
    · rw [out]; rfl
    · rw [out]; rfl
    · rw [out]; rfl
    · rw [State.setHold_left (s := s.releaseUrgent p) h]
      exact ⟨rfl, rfl⟩

/-! ## Silence (R158) -/

/-- A port gone SILENT, before it leaves the hold set. -/
def State.silenced (s : State) (p : Port) : State := (s.modPort p PortState.goSilent).latch (otherPort p) .peer

/-- Settles O59: the silence expiry undoes what the port holds. -/
theorem silenceExpiryUndoesThePort : Obligations.SilenceExpiryUndoesThePort := by
  unfold Obligations.SilenceExpiryUndoesThePort
  intro s p ms hm
  have frame := State.planFrame_setHold (s.silenced p) p false
  have out := State.setHold_out (s.silenced p) p false
  have ports := State.setHold_ports (s.silenced p) p false
  refine ⟨(s.silenced p).setHold p false, congrArg _ (if_pos (by rw [hm]; rfl)), ?_, ?_, ?_, ?_, ?_, frame.changes, frame.store,
    frame.samePlan, frame.generation, frame.engine, fun hp ho => (State.setHold_emptied (s := s.silenced p) hp ho).1,
    fun hp ho => (State.setHold_emptied (s := s.silenced p) hp ho).2, fun h => ?_⟩
  · rw [State.port_congr ports, State.silenced, State.port_latch_other', State.port_modPort_self]
    rfl
  · rw [State.port_congr ports, State.silenced, State.port_latch_self, State.port_modPort_other]
    rfl
  · rw [out]; rfl
  · rw [out]; rfl
  · rw [out]; rfl
  · rw [State.setHold_left (s := s.silenced p) h]
    exact ⟨rfl, rfl⟩

/-! ## ON_AIR and the closing (R121, R123) -/

theorem State.enterOnAir_shows (s : State) (p : Port) : (s.enterOnAir.port p).latched .txState = true :=
  (State.airFrame_formQuiet _).latched ((State.airFrame_reformAll _).latched (s.latched_setTx .onAir p))

theorem State.enterOnAir_quiet (s : State) :
    (s.enterOnAir.out.quiet.isSome = true ↔ s.enterOnAir.Quiet) ∧ ∀ ms, s.enterOnAir.out.quiet = some ms → ms = s.out.quiet.getD 0 := by
  have forms := (s.setTx .onAir).reformAll.formQuiet_forms
  rw [State.reformAll_out, State.setTx_out] at forms
  exact forms

/-- ON_AIR entered: every slot that wants the air turns up where the hold set is empty, every other slot turns down. -/
theorem State.enterOnAir_ramp (s : State) (k : SlotIx) :
    (s.holdEmpty = true ∧ (s.slot k).Wants → TurnedUp s.wide.rampStep (s.slot k).ramp (s.enterOnAir.slot k).ramp) ∧
      (¬ (s.holdEmpty = true ∧ (s.slot k).Wants) → TurnedDown s.wide.rampStep (s.slot k).ramp (s.enterOnAir.slot k).ramp) := by
  have onAir : (s.setTx .onAir).out.state = .onAir := by simp
  have empty : (s.setTx .onAir).holdEmpty = s.holdEmpty := (s.airFrame_setTx .onAir).holdEmpty
  have slot : (s.setTx .onAir).slot k = s.slot k := State.slot_congr (by simp) k
  have wide : (s.setTx .onAir).wide = s.wide := by simp
  have demand := State.onDemand_iff (s.setTx .onAir) k
  rw [onAir, empty, slot] at demand
  rw [State.enterOnAir, State.slot_formQuiet, ← slot, ← wide]
  refine ⟨fun h => State.reformAll_turnedUp (demand.mpr ⟨rfl, by rwa [slot] at h⟩),
    fun h => State.reformAll_turnedDown fun hd => h (by rw [slot]; exact (demand.mp hd).2)⟩

/-- Settles O40: the end of the warm-up. -/
theorem warmUpExpiryEntersOnAir : Obligations.WarmUpExpiryEntersOnAir := by
  unfold Obligations.WarmUpExpiryEntersOnAir
  intro s ms hs hm
  obtain ⟨state, paEn, warmUp⟩ := s.enterOnAir_out
  have frame := s.airFrame_enterOnAir
  have expires : exec .warmUpExpiry s = .next s.enterOnAir := congrArg _ (if_pos ⟨hs, by rw [hm]; rfl⟩)
  refine ⟨s.enterOnAir, expires, state, paEn, warmUp, fun p => s.enterOnAir_shows p, fun k hk hh hw => ?_, fun k hk hn => ?_, ?_,
    frame.samePlan, frame.generation, frame.engine, frame.store, frame.bEff, frame.trips, frame.hold⟩
  · exact ((s.enterOnAir_ramp k).1 ⟨hh, hw⟩).1 hk
  · exact ((s.enterOnAir_ramp k).2 hn).2.2.2.2 hk
  · rw [s.enterOnAir_quiet.1, State.Quiet, frame.wide, frame.holdEmpty, state]
    simp only [frame.record, frame.sel, true_and]

/-- Settles O41: the quiet timer's expiry. -/
theorem quietExpiryClosesToStandby : Obligations.QuietExpiryClosesToStandby := by
  unfold Obligations.QuietExpiryClosesToStandby
  intro s ms hs hq
  obtain ⟨closed, closing, quiet, -, turned, shown⟩ := s.enterClosing_out .standby
  have target : Target.standby.state = TxState.standby := rfl
  rw [target] at closed
  have frame := s.airFrame_enterClosing .standby
  have expired : s.quietExpired = s.enterClosing .standby := if_pos hs
  have expires : exec .quietExpiry s = .next (s.enterClosing .standby) := by
    rw [← expired]
    exact congrArg _ (if_pos (by rw [hq]; rfl))
  generalize s.enterClosing .standby = t at *
  exact ⟨t, expires, quiet, shown, turned, closed, closing, frame.samePlan, frame.generation, frame.engine,
    frame.store, frame.trips, frame.hold⟩

end Sys2Proof.Machine
end

section
/-! PROOF. What the Change Queue hands over and what a purge takes out (R31, R32); the ends of the store's phases (R137 to R140). -/

namespace Sys2Proof.Machine

/-! ## The queue (R31) -/

theorem ChangeClass.expedited_or_normal (c : ChangeClass) : c = .expedited ∨ c = .normal := by
  cases c <;> simp

/-- Settles O14: the oldest EXPEDITED entry, otherwise the oldest NORMAL one. -/
theorem queueHandsOverTheOldestExpedited : Obligations.QueueHandsOverTheOldestExpedited := by
  unfold Obligations.QueueHandsOverTheOldestExpedited
  intro q
  unfold ChangeQueue.next
  cases h : q.entries.find? fun e => e.cls == .expedited with
  | some x =>
    obtain ⟨hx, older, younger, hq, hold⟩ := List.find?_eq_some_iff_append.mp h
    refine ⟨by simp [hq], fun e he => ?_⟩
    obtain rfl := Option.some.inj he
    refine .inl ⟨older, younger, hq, by simpa using hx, fun y hy => ?_⟩
    have := hold y hy
    exact y.cls.expedited_or_normal.resolve_left (by simpa using this)
  | none =>
    refine ⟨List.head?_eq_none_iff, fun e he => .inr ⟨fun y hy => ?_, ?_⟩⟩
    · have := List.find?_eq_none.mp h y hy
      exact y.cls.expedited_or_normal.resolve_left (by simpa using this)
    · exact List.head?_eq_some_iff.mp he

/-! ## A purge (R32) -/

/-- The outcome records placed on a port, one after the other. -/
theorem State.port_placeOutcomes (p : Port) (f : Entry → OutcomeRecord) : ∀ (l : List Entry) (s : State),
    (l.foldl (fun t e => t.placeOutcome p (f e)) s).port p =
      { s.port p with
        outcomes := (l.map f).foldl pushOutcome (s.port p).outcomes
        latches := if l = [] then (s.port p).latches else (s.port p).latches ||| Cause.outcome.bit }
  | [], s => rfl
  | e :: l, s => by
    have first : (s.placeOutcome p (f e)).port p =
        { s.port p with
          outcomes := pushOutcome (s.port p).outcomes (f e)
          latches := (s.port p).latches ||| Cause.outcome.bit } := by
      rw [State.placeOutcome, State.port_latch_self, State.port_modPort_self]
    rw [List.foldl_cons, State.port_placeOutcomes p f l, first]
    simp only [List.map_cons, List.foldl_cons, BitVec.or_assoc, BitVec.or_self, ite_self, reduceCtorEq, if_false]

theorem State.port_placeOutcomes_other (p : Port) (f : Entry → OutcomeRecord) : ∀ (l : List Entry) (s : State),
    (l.foldl (fun t e => t.placeOutcome p (f e)) s).port (otherPort p) = s.port (otherPort p)
  | [], s => rfl
  | e :: l, s => by
    rw [List.foldl_cons, State.port_placeOutcomes_other p f l, State.placeOutcome, State.port_latch_other,
      State.port_modPort_other]

theorem State.port_purge (s : State) (p : Port) :
    (s.purge p).port p =
      { s.port p with
        outcomes :=
          ((s.changes.entries.filter fun e => e.origin == p).map fun e => e.outcome .purged none).foldl pushOutcome (s.port p).outcomes
        latches :=
          if (s.changes.entries.filter fun e => e.origin == p) = [] then (s.port p).latches
          else (s.port p).latches ||| Cause.outcome.bit } :=
  State.port_placeOutcomes p (fun e => e.outcome .purged none) _ _

theorem State.port_purge_other (s : State) (p : Port) : (s.purge p).port (otherPort p) = s.port (otherPort p) :=
  State.port_placeOutcomes_other p (fun e => e.outcome .purged none) _ _

theorem State.port_releaseUrgent (s : State) (p : Port) : (s.releaseUrgent p).port p = { s.port p with urgent := none } :=
  State.port_modPort_self _ _ _

/-- Settles O16: a purge takes out the port's entries and records each. -/
theorem purgeRemovesThePortsEntries : Obligations.PurgeRemovesThePortsEntries := by
  unfold Obligations.PurgeRemovesThePortsEntries
  intro s p hu
  have frame := State.deskFrame_purge (s.releaseUrgent p) p
  have port := State.port_purge (s.releaseUrgent p) p
  rw [State.port_releaseUrgent, State.releaseUrgent_changes] at port
  refine ⟨(s.releaseUrgent p).purge p, congrArg _ (if_pos hu), State.purge_changes _ _, ?_, ?_, fun hm => ?_, fun hm => ?_, ?_,
    frame.slots, frame.wide, frame.generation, frame.engine, frame.out, State.purge_store _ _, frame.feeds, frame.bEff⟩
  · rw [port]
  · rw [port]
    rfl
  · have some : (s.changes.entries.filter fun e => e.origin == p) ≠ [] := by simpa using hm
    rw [port, if_neg some]
    exact (PortState.latched_or { s.port p with urgent := none } .outcome .outcome).trans (by simp)
  · have none : (s.changes.entries.filter fun e => e.origin == p) = [] := by simpa using hm
    rw [port, if_pos none, none]
    rfl
  · rw [State.port_purge_other]
    exact State.port_modPort_other _ _ _

/-! ## The ends of the store's phases (R137 to R140) -/

/-- The store after an operation: its last result, and the pending read or IDLE (R139, R140). -/
theorem Store.finish_reads (st : Store) :
    (st.pendingRead = none → st.finish.activity = .idle) ∧
      ∀ r, st.pendingRead = some r → st.finish.activity = .reading r ∧ st.finish.phaseLeft = 5 ∧ st.finish.pendingRead = some r := by
  unfold Store.finish
  cases h : st.pendingRead with
  | none => exact ⟨fun _ => rfl, fun r hr => absurd hr (by simp)⟩
  | some n =>
    refine ⟨fun hn => absurd hn (by simp), fun r hr => ?_⟩
    obtain rfl := Option.some.inj hr
    exact ⟨rfl, rfl, h⟩

theorem Store.finish_kept (st : Store) : st.finish.boot = st.boot ∧ st.finish.lastResult = st.lastResult := by
  unfold Store.finish
  cases st.pendingRead <;> exact ⟨rfl, rfl⟩

/-- What the completion of an operation leaves, where the operation left `st` of the store (R140). -/
theorem State.completeOperation_ends (s : State) (st : Store) (op : PortOp) (p : Port) (done : Bool) {t : State}
    (ht : t = s.completeOperation st op p done) :
    (∀ m, t.store.preset m = st.preset m) ∧ t.store.boot = st.boot ∧ t.store.lastResult = some ⟨op, p, done⟩ ∧
      (st.pendingRead = none → t.store.activity = .idle) ∧
      (∀ r, st.pendingRead = some r → t.store.activity = .reading r ∧ t.store.phaseLeft = 5 ∧ t.store.pendingRead = some r) ∧
      t = State.latch { s with store := t.store } p .store := by
  obtain ⟨idle, reads⟩ := Store.finish_reads { st with lastResult := some ⟨op, p, done⟩ }
  obtain ⟨boot, result⟩ := Store.finish_kept { st with lastResult := some ⟨op, p, done⟩ }
  have store : t.store = ({ st with lastResult := some ⟨op, p, done⟩ } : Store).finish := by
    rw [ht, State.completeOperation_store]
  rw [store]
  exact ⟨fun m => Store.preset_finish _ m, boot, result, idle, reads, ht⟩

/-- Settles O47: the end of each phase, by Table 8.2.1. -/
theorem storePhasesEndAsTheTableSays : Obligations.StorePhasesEndAsTheTableSays := by
  unfold Obligations.StorePhasesEndAsTheTableSays
  intro s n snapshot p sel
  refine ⟨fun ha => ?erasing, fun passed ha => ?programming, fun ha => ?erase, fun ha => ?boot⟩
  case erasing =>
    refine ⟨{ s with store := (s.store.putPreset n .empty).begin (.savingProgram n snapshot p) programmingMs }, ?_, rfl, rfl, ?_,
      fun m hm => ?_, rfl, rfl, rfl, rfl⟩
    · simp only [exec, execEndOfErasing, State.endErasing, ha]
    · simp [Store.preset_putPreset]
    · simp [Store.preset_putPreset_of_ne _ hm]
  case programming =>
    obtain ⟨presets, boot, result, idle, reads, whole⟩ := State.completeOperation_ends s
      (s.store.putPreset n (if passed then .valid snapshot else .corrupt)) (.save n) p passed rfl
    refine ⟨_, ?_, fun hv => ?_, fun hv => ?_, fun m hm => ?_, boot, result, idle, reads, whole⟩
    · simp only [exec, execEndOfProgramming, State.endProgramming, ha]
    · rw [presets, Store.preset_putPreset, if_pos rfl, if_pos hv]
    · rw [presets, Store.preset_putPreset, if_pos rfl, if_neg (by simp [hv])]
    · rw [presets, Store.preset_putPreset_of_ne _ hm]
  case erase =>
    obtain ⟨presets, boot, result, idle, reads, whole⟩ := State.completeOperation_ends s (s.store.putPreset n .empty) (.erase n) p
      true rfl
    refine ⟨_, ?_, ?_, fun m hm => ?_, boot, result, idle, reads, whole⟩
    · simp only [exec, execEraseCompletion, State.endErase, ha]
    · simp [presets, Store.preset_putPreset]
    · rw [presets, Store.preset_putPreset_of_ne _ hm]
  case boot =>
    obtain ⟨presets, boot, result, idle, reads, whole⟩ := State.completeOperation_ends s { s.store with boot := sel }
      (.writeBoot sel) p true rfl
    refine ⟨_, ?_, boot, presets, result, idle, reads, whole⟩
    simp only [exec, execBootSelectorWriteCompletion, State.endBootWrite, ha]

end Sys2Proof.Machine
end

section
/-! PROOF. Select periods, back-pressure and PORT_CLEAR (R148 to R155): the executions that one event of a port allows. -/

namespace Sys2Proof.Machine

/-! ## The executions of a port (R151) -/

/-- Nothing waits, or nothing can be executed. -/
def PortState.Settled (q : PortState) : Prop := q.cmdQueue = [] ∨ 4 ≤ q.rspQueue.length

theorem State.runPort_settled {s : State} {p : Port} (h : (s.port p).Settled) : s.runPort p = s := by
  have same : s.modPort p (fun q => { q with cmdQueue := (s.port p).cmdQueue }) = s := State.modPort_of_eq _ _ _ rfl
  unfold State.runPort
  cases hq : (s.port p).cmdQueue with
  | nil =>
    rw [hq] at same
    exact same
  | cons f rest =>
    have full : 4 ≤ (s.port p).rspQueue.length := h.resolve_left (by simp [hq])
    rw [hq] at same
    exact (if_neg (by omega)).trans same

/-- The command at the head is executed, and no other: none waits behind it, or its response fills the queue. -/
theorem State.runPort_one {s : State} {p : Port} {f : Frame} {rest : List Frame} (hq : (s.port p).cmdQueue = f :: rest)
    (hroom : (s.port p).rspQueue.length < 4) (hlast : rest = [] ∨ (s.port p).rspQueue.length = 3) {u : State}
    (hu : u = s.modPort p fun q => q.waiting rest) :
    s.runPort p = (u.perform p f).2.answered p (u.perform p f).1.1 f.code (u.perform p f).1.2 := by
  have queues := s.sameQueues_perform p p f
  have answered : ((s.executeFrame p f).port p).rspQueue.length = (s.port p).rspQueue.length + 1 := by
    rw [State.executeFrame_eq, State.answered, State.port_modPort_self]
    simp [queues.rspQueue]
  have stops : State.runCommands p rest (s.executeFrame p f) = (s.executeFrame p f).modPort p fun q => q.waiting rest := by
    cases rest with
    | nil => rfl
    | cons g rest => exact if_neg (by have := hlast.resolve_left (by simp); omega)
  rw [State.runPort, hq, State.runCommands, if_pos hroom, stops, hu, State.perform_waiting, State.executeFrame_eq]
  simp only [State.answered, State.modPort_modPort_self]
  rfl

/-! ## What an execution leaves of the port's flags -/

/-- The register and the two flags of a port are left alone. -/
structure PortState.SameFlags (q r : PortState) : Prop where
  urgent : r.urgent = q.urgent
  overrun : r.overrun = q.overrun
  urgentLost : r.urgentLost = q.urgentLost

theorem PortState.SameFlags.refl (q : PortState) : q.SameFlags q := ⟨rfl, rfl, rfl⟩

theorem PortState.SameFlags.trans {q r u : PortState} (h : q.SameFlags r) (g : r.SameFlags u) : q.SameFlags u :=
  ⟨g.urgent.trans h.urgent, g.overrun.trans h.overrun, g.urgentLost.trans h.urgentLost⟩

theorem State.sameFlags_modPort (s : State) (p i : Port) {f : PortState → PortState} (h : (s.port p).SameFlags (f (s.port p))) :
    (s.port i).SameFlags ((s.modPort p f).port i) := by
  rw [State.port_modPort]
  split_ifs with hi
  · subst hi
    exact h
  · exact .refl _

theorem PortState.clearHighest_sameFlags (q : PortState) : q.SameFlags q.clearHighest := by
  unfold PortState.clearHighest
  split <;> exact ⟨rfl, rfl, rfl⟩

theorem State.sameFlags_doStore (s : State) (p i : Port) (op : PortOp) : (s.port i).SameFlags ((s.doStore p op).2.port i) := by
  rw [State.doStore, State.storeCommand_eq]
  split_ifs <;> exact .refl _

theorem State.sameFlags_doSetPeer (s : State) (p i : Port) (w : List Byte) : (s.port i).SameFlags ((s.doSetPeer p w).2.port i) := by
  have written := s.sameFlags_modPort p i
    (f := fun q => { q with peer0 := (byteAt w 0).getLsbD 0, peer1 := (byteAt w 0).getLsbD 1 }) ⟨rfl, rfl, rfl⟩
  unfold State.doSetPeer
  simp only
  split
  · exact written
  · exact written.trans (State.sameFlags_modPort _ _ _ ⟨rfl, rfl, rfl⟩)

theorem State.sameFlags_act (s : State) (p i : Port) (c : Command) (w : List Byte) : (s.port i).SameFlags ((s.act p c w).2.port i) := by
  cases c with
  | submitChange =>
    show (s.port i).SameFlags ((s.submit p w).2.port i)
    unfold State.submit
    split
    · exact .refl _
    · split <;> exact .refl _
  | readSlot =>
    show (s.port i).SameFlags ((s.doReadSlot w).2.port i)
    unfold State.doReadSlot
    split <;> exact .refl _
  | readEvents => exact s.sameFlags_modPort p i (PortState.clearHighest_sameFlags _)
  | setEventMask | setSilence | scanNext => exact s.sameFlags_modPort p i ⟨rfl, rfl, rfl⟩
  | setPeerFlags => exact s.sameFlags_doSetPeer p i w
  | scanRange =>
    show (s.port i).SameFlags ((s.doScanRange p w).2.port i)
    unfold State.doScanRange
    split
    · exact s.sameFlags_modPort p i ⟨rfl, rfl, rfl⟩
    · exact .refl _
  | savePreset =>
    show (s.port i).SameFlags ((s.doSave p w).2.port i)
    unfold State.doSave
    split
    · exact s.sameFlags_doStore p i _
    · exact .refl _
  | erasePreset =>
    show (s.port i).SameFlags ((s.doErase p w).2.port i)
    unfold State.doErase
    split
    · exact s.sameFlags_doStore p i _
    · exact .refl _
  | setBoot =>
    show (s.port i).SameFlags ((s.doSetBoot p w).2.port i)
    unfold State.doSetBoot
    split
    · exact s.sameFlags_doStore p i _
    · exact .refl _
  | _ => exact .refl _

theorem State.sameFlags_executeFrame (s : State) (p : Port) (f : Frame) : (s.port p).SameFlags ((s.executeFrame p f).port p) := by
  have performed : (s.port p).SameFlags ((s.perform p f).2.port p) := by
    unfold State.perform
    split
    · exact .refl _
    · split
      · exact s.sameFlags_act p p _ _
      · exact .refl _
  exact performed.trans (State.sameFlags_modPort _ _ _ ⟨rfl, rfl, rfl⟩)

/-- The executions of a list of commands: as many as the response queue has room for, oldest first, one response each. -/
theorem State.runCommands_lists (p : Port) : ∀ (l : List Frame) (s : State), (s.port p).rspQueue.length ≤ 4 →
    ((State.runCommands p l s).port p).cmdQueue = l.drop (4 - (s.port p).rspQueue.length) ∧
      ((State.runCommands p l s).port p).rspQueue.map Response.command =
        (s.port p).rspQueue.map Response.command ++ (l.take (4 - (s.port p).rspQueue.length)).map Frame.code ∧
      (s.port p).SameFlags ((State.runCommands p l s).port p)
  | [], s, _ => by
    rw [State.runCommands, State.port_modPort_self]
    exact ⟨by simp, by simp, ⟨rfl, rfl, rfl⟩⟩
  | f :: fs, s, hl => by
    by_cases hroom : (s.port p).rspQueue.length < 4
    · have rsp : ((s.executeFrame p f).port p).rspQueue =
          (s.port p).rspQueue ++ [⟨(s.perform p f).1.1, f.code, (s.perform p f).1.2⟩] := by
        rw [State.executeFrame_eq, State.answered, State.port_modPort_self]
        simp [(s.sameQueues_perform p p f).rspQueue]
      have length : ((s.executeFrame p f).port p).rspQueue.length = (s.port p).rspQueue.length + 1 := by simp [rsp]
      obtain ⟨cmd, answers, flags⟩ := State.runCommands_lists p fs (s.executeFrame p f) (by omega)
      obtain ⟨n, hn⟩ : ∃ n, 4 - (s.port p).rspQueue.length = n + 1 := ⟨3 - (s.port p).rspQueue.length, by omega⟩
      have hn' : 4 - ((s.executeFrame p f).port p).rspQueue.length = n := by omega
      rw [State.runCommands, if_pos hroom, hn]
      rw [hn'] at cmd answers
      exact ⟨cmd, by simp [answers, rsp], (s.sameFlags_executeFrame p f).trans flags⟩
    · have full : 4 - (s.port p).rspQueue.length = 0 := by omega
      rw [State.runCommands, if_neg hroom, State.port_modPort_self, full]
      exact ⟨rfl, by simp, ⟨rfl, rfl, rfl⟩⟩

/-! ## PORT_CLEAR (R155) -/

theorem PortState.clear_eq (q : PortState) (sel : ClearSelector) :
    q.clear sel =
      { q with
        cmdQueue := if sel.clearsCommands then [] else q.cmdQueue
        rspQueue := if sel.clearsResponses then [] else q.rspQueue
        overrun := false
        urgentLost := false
        period := q.period.map fun o => { o with atHead := o.atHead && !sel.clearsResponses } } := by
  unfold PortState.clear
  cases q.period <;> rfl

/-- The port as PORT_CLEAR leaves it, before the executions that it makes room for. -/
def State.clearedPort (s : State) (p : Port) (sel : ClearSelector) : State :=
  s.modPort p fun q => ({ q with urgent := none } : PortState).clear sel

theorem exec_portClear {s : State} {p : Port} {sel : ClearSelector} (h : (s.port p).urgent = some (.portClear sel)) :
    exec (.portClear p) s = .next ((s.clearedPort p sel).runPort p) := by
  have taken : s.takeClear p = (s.releaseUrgent p).clearPort p sel := by
    unfold State.takeClear
    rw [h]
  show Host.Outcome.next (s.takeClear p) = _
  rw [taken, State.clearPort, State.releaseUrgent, State.modPort_modPort_self]
  rfl

/-- Settles O58: PORT_CLEAR, with nothing left to execute and with commands that it makes room for. -/
theorem portClearEmptiesTheNamedQueues : Obligations.PortClearEmptiesTheNamedQueues := by
  unfold Obligations.PortClearEmptiesTheNamedQueues
  refine ⟨fun s p sel hu hsel => ?emptied, fun s p hu => ?executed⟩
  case emptied =>
    have port : (s.clearedPort p sel).port p = ({ s.port p with urgent := none } : PortState).clear sel := State.port_modPort_self _ _ _
    have empty : ((s.clearedPort p sel).port p).cmdQueue = [] := by
      rw [port, PortState.clear_eq]
      rcases hsel with rfl | rfl | hq
      · rfl
      · rfl
      · simp [hq]
    rw [exec_portClear hu, State.runPort_settled (.inl empty)]
    refine congrArg _ (State.modPort_congr ?_)
    have empty' := empty
    rw [port, PortState.clear_eq] at empty'
    rw [PortState.clear_eq]
    cases sel <;> simp_all [ClearSelector.clearsCommands, ClearSelector.clearsResponses]
  case executed =>
    have port : (s.clearedPort p .responses).port p = { s.port p with
        rspQueue := []
        urgent := none
        overrun := false
        urgentLost := false
        period := (s.port p).period.map fun o => { o with atHead := false } } := by
      rw [State.clearedPort, State.port_modPort_self, PortState.clear_eq]
      simp [ClearSelector.clearsCommands, ClearSelector.clearsResponses]
    obtain ⟨cmd, answers, flags⟩ := State.runCommands_lists p (s.port p).cmdQueue (s.clearedPort p .responses) (by simp [port])
    rw [port] at cmd answers flags
    have run : (s.clearedPort p .responses).runPort p = State.runCommands p (s.port p).cmdQueue (s.clearedPort p .responses) := by
      rw [State.runPort, port]
    refine ⟨_, exec_portClear hu, ?_, ?_, ?_, ?_, ?_, fun f hf => ⟨_, rfl, ?_⟩⟩
    · rw [run, cmd]; rfl
    · rw [run, answers]; rfl
    · rw [run, flags.urgent]
    · rw [run, flags.overrun]
    · rw [run, flags.urgentLost]
    · refine State.runPort_one (rest := []) (by rw [port]; exact hf) (by simp [port]) (.inl rfl) ?_
      rw [State.clearedPort, State.modPort_modPort_self]
      refine State.modPort_congr ?_
      rw [PortState.clear_eq]
      simp [ClearSelector.clearsResponses, PortState.waiting]

end Sys2Proof.Machine
end

section
/-! PROOF. The start and the end of a select period (R148 to R151, R153). -/

namespace Sys2Proof.Machine

/-! ## The start (R148) -/

/-- Settles O49: a period fixes its frame and its summary. -/
theorem periodStartFixesTheFrame : Obligations.PeriodStartFixesTheFrame := by
  unfold Obligations.PeriodStartFixesTheFrame
  refine fun s p => ⟨fun hn => ?starts, fun hsome => congrArg _ (if_pos hsome)⟩
  have start : exec (.selectPeriodStart p) s = .next (s.startPeriod p) := congrArg _ (if_neg (by simp [hn]))
  have fixed : ∀ t : State, t = (s.modPort p fun q => { q with period := some (s.fixOutgoing p), silenceTimer := none, silent := false }) →
      t.port p = { s.port p with period := some (s.fixOutgoing p), silenceTimer := none, silent := false } ∧
        t.port (otherPort p) = s.port (otherPort p) := by
    rintro t rfl
    exact ⟨State.port_modPort_self _ _ _, State.port_modPort_other _ _ _⟩
  refine ⟨s.startPeriod p, s.fixOutgoing p, start, ?_, rfl, rfl, ?_, fun hs => ?_, fun hs => ?_, ?_⟩
  · unfold State.startPeriod
    simp only
    split
    · rw [State.port_latch_other', (fixed _ rfl).1]
    · exact (fixed _ rfl).1
  · simp only [State.fixOutgoing, State.summary, PortState.attention, PortState.unmasked, State.booting, bne, decide_not]
    rfl
  · unfold State.startPeriod
    simp only [hs]
    exact (fixed _ rfl).2
  · unfold State.startPeriod
    simp only [hs, if_true]
    rw [State.port_latch_self, (fixed _ rfl).2]
    rfl
  · unfold State.startPeriod
    simp only
    split <;> rfl

/-! ## The end (R149, R150) -/

theorem PortState.closePeriod_clearShown (q : PortState) (o : Outgoing) : (q.clearShown o false false).closePeriod = q.closed o := by
  simp [PortState.closePeriod, PortState.clearShown, PortState.closed]

theorem PortState.closePeriod_overran (q : PortState) (o : Outgoing) (h : q.overrun = true) :
    (q.clearShown o true false).closePeriod = { q.closed o with overrun := true } := by
  simp [PortState.closePeriod, PortState.clearShown, PortState.closed, h]

/-- The state after the removal of the response shifted out and the executions that it makes room for. -/
def State.removed (s : State) (p : Port) (o : Outgoing) (n : Nat) : State :=
  (s.modPort p fun q => q.removeShifted o n).runPort p

/-- The rest of the end of a period, on the bytes of a frame. -/
def State.received (t : State) (p : Port) (o : Outgoing) (f : Frame) : State :=
  (t.deliver p f).modPort p fun q => (q.clearShown o ((t.port p).overruns f) ((t.port p).losesUrgent f)).closePeriod

theorem exec_selectPeriodEnd {s : State} {p : Port} {o : Outgoing} (h : (s.port p).period = some o) (w : List Byte) :
    exec (.selectPeriodEnd p w) s =
      .next (if w.length < 2 then (s.removed p o w.length).modPort p fun q => q.closed o
        else (s.removed p o w.length).received p o (frameOfBytes w)) := by
  have ends : s.endPeriodOf p w = s.endPeriod p o w := by
    unfold State.endPeriodOf
    rw [h]
  show Host.Outcome.next (s.endPeriodOf p w) = _
  rw [ends]
  unfold State.endPeriod
  simp only [PortState.closePeriod_clearShown]
  rfl

theorem State.received_nop {t : State} {p : Port} (ht : (t.port p).Settled) (o : Outgoing) {f : Frame} (hf : f.code = 0) :
    t.received p o f = t.modPort p fun q => q.closed o := by
  have same : (t.modPort p fun q => q.classify f) = t := State.modPort_of_eq _ _ _ (if_pos hf)
  rw [State.received, State.deliver, same, State.runPort_settled ht]
  simp only [PortState.overruns, PortState.losesUrgent, hf, bne_self_eq_false, Bool.false_and, PortState.closePeriod_clearShown]

theorem code_ne_zero_of_urgent {f : Frame} {u : Urgent} (h : urgentOfFrame f = some u) : f.code ≠ 0 := by
  intro hc
  simp [urgentOfFrame, hc, commandOfCode] at h

theorem State.received_urgent {t : State} {p : Port} (ht : (t.port p).Settled) (o : Outgoing) {f : Frame} {u : Urgent}
    (hu : urgentOfFrame f = some u) :
    t.received p o f =
      t.modPort p fun q =>
        { q.closed o with
          urgent := some (q.urgent.getD u)
          urgentLost := q.urgent.isSome || (q.closed o).urgentLost } := by
  have hc := code_ne_zero_of_urgent hu
  have placed : ∀ q : PortState, q.classify f = q.placeUrgent u := fun q => by
    simp only [PortState.classify, if_neg hc, hu]
  have settled : (((t.modPort p fun q => q.classify f)).port p).Settled := by
    rw [State.port_modPort_self, placed, PortState.placeUrgent]
    split_ifs <;> exact ht
  have overruns : (t.port p).overruns f = false := by simp [PortState.overruns, hu]
  have loses : (t.port p).losesUrgent f = (t.port p).urgent.isSome := by
    rw [PortState.losesUrgent, hu, bne_iff_ne.mpr hc]
    rfl
  rw [State.received, State.deliver, State.runPort_settled settled, State.modPort_modPort_self, overruns, loses]
  refine State.modPort_congr ?_
  rw [placed, PortState.placeUrgent]
  cases h : (t.port p).urgent <;> simp [PortState.closePeriod, PortState.clearShown, PortState.closed, h]

theorem State.deliver_waits {t : State} {p : Port} (hr : 4 ≤ (t.port p).rspQueue.length) (hq : (t.port p).cmdQueue.length < 4)
    {f : Frame} (hc : f.code ≠ 0) (hu : urgentOfFrame f = none) :
    t.deliver p f = t.modPort p fun q => { q with cmdQueue := q.cmdQueue ++ [f] } := by
  have waits : (t.modPort p fun q => q.classify f) = t.modPort p fun q => { q with cmdQueue := q.cmdQueue ++ [f] } :=
    State.modPort_congr (by simp only [PortState.classify, if_neg hc, hu, PortState.enqueue, if_pos hq])
  rw [State.deliver, waits, State.runPort_settled (.inr (by rw [State.port_modPort_self]; exact hr))]

theorem State.deliver_discarded {t : State} {p : Port} (hr : 4 ≤ (t.port p).rspQueue.length)
    (hq : 4 ≤ (t.port p).cmdQueue.length) {f : Frame} (hc : f.code ≠ 0) (hu : urgentOfFrame f = none) :
    t.deliver p f = t.modPort p fun q => { q with overrun := true } := by
  have discards : (t.modPort p fun q => q.classify f) = t.modPort p fun q => { q with overrun := true } :=
    State.modPort_congr (by simp only [PortState.classify, if_neg hc, hu, PortState.enqueue, if_neg (Nat.not_lt.mpr hq)])
  rw [State.deliver, discards, State.runPort_settled (.inr (by rw [State.port_modPort_self]; exact hr))]

/-- A frame that a full response queue makes wait, at a command queue with room. -/
theorem State.received_waits {t : State} {p : Port} (hr : 4 ≤ (t.port p).rspQueue.length) (hq : (t.port p).cmdQueue.length < 4)
    (o : Outgoing) {f : Frame} (hc : f.code ≠ 0) (hu : urgentOfFrame f = none) :
    t.received p o f = t.modPort p fun q => { q.closed o with cmdQueue := q.cmdQueue ++ [f] } := by
  have overruns : (t.port p).overruns f = false := by simp [PortState.overruns, hq]
  have loses : (t.port p).losesUrgent f = false := by simp [PortState.losesUrgent, hu]
  rw [State.received, State.deliver_waits hr hq hc hu, State.modPort_modPort_self, overruns, loses]
  simp only [PortState.closePeriod_clearShown]
  rfl

theorem State.received_discarded {t : State} {p : Port} (hr : 4 ≤ (t.port p).rspQueue.length) (hq : 4 ≤ (t.port p).cmdQueue.length)
    (o : Outgoing) {f : Frame} (hc : f.code ≠ 0) (hu : urgentOfFrame f = none) :
    t.received p o f = t.modPort p fun q => { q.closed o with overrun := true } := by
  have overruns : (t.port p).overruns f = true := by
    rw [PortState.overruns, hu, bne_iff_ne.mpr hc]
    simpa using hq
  have loses : (t.port p).losesUrgent f = false := by simp [PortState.losesUrgent, hu]
  rw [State.received, State.deliver_discarded hr hq hc hu, State.modPort_modPort_self, overruns, loses]
  refine State.modPort_congr ?_
  rw [PortState.closePeriod_overran _ _ rfl]
  rfl

/-- A frame at a port with nothing waiting is delivered, and the period closes. -/
theorem State.received_delivered {t : State} {p : Port} (hq : (t.port p).cmdQueue = []) (o : Outgoing) {f : Frame}
    (hu : urgentOfFrame f = none) : t.received p o f = (t.deliver p f).modPort p fun q => q.closed o := by
  have overruns : (t.port p).overruns f = false := by simp [PortState.overruns, hq]
  have loses : (t.port p).losesUrgent f = false := by simp [PortState.losesUrgent, hu]
  simp only [State.received, overruns, loses, PortState.closePeriod_clearShown]

/-! ## The bytes of the period -/

theorem UrgentBytes.two_le {w : List Byte} {u : Urgent} (h : UrgentBytes w u) : ¬ w.length < 2 := by
  obtain ⟨filler, h⟩ := h
  rcases h with h | h | h | h | h | h <;> simp [h.1]

theorem FrameBytes.two_le {w : List Byte} {f : Frame} (h : FrameBytes w f) : ¬ w.length < 2 := by
  obtain ⟨-, -, filler, rfl, -⟩ := h
  simp

/-- A period of a NOP, or of fewer than two bytes (R149). -/
theorem exec_period_nop {s t : State} {p : Port} {o : Outgoing} {w : List Byte} (hp : (s.port p).period = some o)
    (ht : s.removed p o w.length = t) (hs : (t.port p).Settled) (hw : w.length < 2 ∨ byteAt w 0 = 0) :
    exec (.selectPeriodEnd p w) s = .next (t.modPort p fun q => q.closed o) := by
  rw [exec_selectPeriodEnd hp, ht]
  split_ifs with h
  · rfl
  · rw [State.received_nop hs o (hw.resolve_left h)]

theorem exec_period_urgent {s t : State} {p : Port} {o : Outgoing} {w : List Byte} (hp : (s.port p).period = some o)
    (ht : s.removed p o w.length = t) (hs : (t.port p).Settled) {u : Urgent} (hw : UrgentBytes w u) :
    exec (.selectPeriodEnd p w) s =
      .next (t.modPort p fun q =>
        { q.closed o with
          urgent := some (q.urgent.getD u)
          urgentLost := q.urgent.isSome || (q.closed o).urgentLost }) := by
  rw [exec_selectPeriodEnd hp, ht, if_neg hw.two_le, State.received_urgent hs o hw.urgent]

theorem exec_period_frame {s t : State} {p : Port} {o : Outgoing} {w : List Byte} (hp : (s.port p).period = some o)
    (ht : s.removed p o w.length = t) {f : Frame} (hw : FrameBytes w f) :
    exec (.selectPeriodEnd p w) s = .next (t.received p o f) := by
  rw [exec_selectPeriodEnd hp, ht, if_neg hw.two_le, hw.frame]

theorem FrameBytes.not_urgent {w : List Byte} {f : Frame} (h : FrameBytes w f) (hu : ∀ u, ¬ UrgentBytes w u) :
    urgentOfFrame f = none :=
  Option.eq_none_iff_forall_ne_some.mpr fun u hf => hu u (h.urgentBytes hf)

/-! ## Removal of the response shifted out (R149) -/

theorem PortState.removeShifted_eq (q : PortState) (o : Outgoing) (n : Nat) :
    q.removeShifted o n = { q with rspQueue := if o.atHead = true ∧ o.length ≤ n then q.rspQueue.tail else q.rspQueue } := by
  unfold PortState.removeShifted
  by_cases h : o.atHead = true ∧ o.length ≤ n
  · rw [if_pos (by simp [h]), if_pos h]
  · rw [if_neg (by simpa using h), if_neg h]

/-- With nothing waiting no command is executed. -/
theorem State.removed_empty {s : State} {p : Port} (h : (s.port p).cmdQueue = []) (o : Outgoing) (n : Nat) :
    s.removed p o n = s.modPort p fun _ => (s.port p).removeShifted o n := by
  have empty : ((s.port p).removeShifted o n).cmdQueue = [] := by rw [PortState.removeShifted_eq, h]
  have run := State.runPort_settled (s := s.modPort p fun q => q.removeShifted o n) (p := p)
    (.inl (by rw [State.port_modPort_self]; exact empty))
  exact run.trans (State.modPort_congr rfl)

/-- A period that takes no response away from a full queue. -/
theorem State.removed_kept {s : State} {p : Port} (hr : (s.port p).rspQueue.length = 4) {o : Outgoing} {n : Nat}
    (h : o.atHead = false ∨ n < o.length) : s.removed p o n = s := by
  have kept : (s.modPort p fun q => q.removeShifted o n) = s := by
    refine State.modPort_of_eq _ _ _ ?_
    rw [PortState.removeShifted_eq, if_neg]
    rintro ⟨ha, hl⟩
    rcases h with h | h
    · simp [h] at ha
    · omega
  rw [State.removed, kept]
  exact State.runPort_settled (.inr (by omega))

/-- A period that takes one response away from a full queue lets the command at the head act, and its response fills the queue
again. -/
theorem State.removed_acts {s u t : State} {p : Port} {o : Outgoing} {n : Nat} {head : Frame} {rest : List Frame}
    (hq : (s.port p).cmdQueue = head :: rest) (hr : (s.port p).rspQueue.length = 4) (ha : o.atHead = true) (hl : o.length ≤ n)
    (hu : u = s.modPort p fun q => { q with cmdQueue := rest, rspQueue := q.rspQueue.tail })
    (ht : t = (u.perform p head).2.answered p (u.perform p head).1.1 head.code (u.perform p head).1.2) :
    s.removed p o n = t ∧ (t.port p).cmdQueue = rest ∧ (t.port p).rspQueue.length = 4 := by
  have port : (s.modPort p fun q => q.removeShifted o n).port p = { s.port p with rspQueue := (s.port p).rspQueue.tail } := by
    rw [State.port_modPort_self, PortState.removeShifted_eq, if_pos ⟨ha, hl⟩]
  have left : u = (s.modPort p fun q => q.removeShifted o n).modPort p fun q => q.waiting rest := by
    rw [hu, State.modPort_modPort_self]
    refine State.modPort_congr ?_
    rw [PortState.removeShifted_eq, if_pos ⟨ha, hl⟩]
    rfl
  have tail : (s.port p).rspQueue.tail.length = 3 := by simp [hr]
  have queues := u.sameQueues_perform p p head
  have uPort : (u.port p).cmdQueue = rest ∧ (u.port p).rspQueue = (s.port p).rspQueue.tail := by
    rw [hu, State.port_modPort_self]
    exact ⟨rfl, rfl⟩
  have tPort : (t.port p).cmdQueue = ((u.perform p head).2.port p).cmdQueue ∧
      (t.port p).rspQueue.length = ((u.perform p head).2.port p).rspQueue.length + 1 := by
    rw [ht, State.answered, State.port_modPort_self]
    exact ⟨rfl, by simp⟩
  refine ⟨?_, ?_, ?_⟩
  · rw [State.removed, ht]
    exact State.runPort_one (by rw [port]; exact hq) (by rw [port, tail]; omega) (.inr (by rw [port]; exact tail)) left
  · rw [tPort.1, queues.cmdQueue, uPort.1]
  · rw [tPort.2, queues.rspQueue, uPort.2, tail]

/-- Settles O51: a command waits while the responses are full, and acts when a period takes one away. -/
theorem framesWaitWhileResponsesAreFull : Obligations.FramesWaitWhileResponsesAreFull := by
  unfold Obligations.FramesWaitWhileResponsesAreFull
  refine ⟨fun c p code b s hc hw hr => ?arrives, fun s p o w f rest hp ha hl hn hq hr => ?acts⟩
  case arrives =>
    obtain ⟨hb, known⟩ := queuedForm_code hc hw
    have nonzero := code_ne_zero_of_queued known
    have urgent := urgentOfFrame_of_queued (f := ⟨code, b⟩) known
    rw [exec_queued hc, keptBody_of_wellFormed hb]
    exact ⟨fun hq => by rw [State.deliver_waits hr hq nonzero urgent], fun hq => by rw [State.deliver_discarded hr hq nonzero urgent]⟩
  case acts =>
    obtain ⟨removed, -, full⟩ := State.removed_acts hq hr ha hl rfl rfl
    exact ⟨_, rfl, exec_period_nop hp removed (.inr (by omega)) (.inr hn)⟩

/-- The urgent codes in no right form are queued frames that no row of the table permits (R170). -/
theorem urgent_code_command {f : Frame} (h : f.code = 0x80 ∨ f.code = 0x81 ∨ f.code = 0x82 ∨ f.code = 0x83) :
    f.code ≠ 0 ∧ ∃ c, commandOfCode f.code = some c ∧ FormFault c f.body := by
  have fault : ∀ c, c = .holdOutput ∨ c = .releaseOutput ∨ c = .purgeChanges ∨ c = .portClear → FormFault c f.body := fun c hc =>
    .inr (.inr (.inr (.inr (.inr (.inr hc)))))
  rcases h with h | h | h | h <;> rw [h]
  · exact ⟨by decide, .holdOutput, rfl, fault _ (by simp)⟩
  · exact ⟨by decide, .releaseOutput, rfl, fault _ (by simp)⟩
  · exact ⟨by decide, .purgeChanges, rfl, fault _ (by simp)⟩
  · exact ⟨by decide, .portClear, rfl, fault _ (by simp)⟩

/-- Settles O50: the end of a select period. -/
theorem periodEndHandlesTheFrame : Obligations.PeriodEndHandlesTheFrame := by
  unfold Obligations.PeriodEndHandlesTheFrame
  refine ⟨fun s p o w hp hq => ?idle, fun s p o w head rest hp hq hlen hr => ⟨fun hk => ?kept, fun ha hl => ?acts⟩⟩
  case idle =>
    have removed := State.removed_empty hq o w.length
    have eq := (s.port p).removeShifted_eq o w.length
    generalize (s.port p).removeShifted o w.length = q at removed eq
    have port : (s.modPort p fun _ => q).port p = q := State.port_modPort_self _ _ _
    have empty : q.cmdQueue = [] := by rw [eq, hq]
    have settled : ((s.modPort p fun _ => q).port p).Settled := by rw [port]; exact .inl empty
    refine ⟨q, eq, fun hw => ?_, fun u hw hu => ?_, fun u hw hu => ?_, fun c code b hc hwf hw t ht => ?_, fun f hw hf hnot => ?_⟩
    · rw [exec_period_nop hp removed settled hw, State.modPort_modPort_self]
    · have none : q.urgent = none := by rw [eq, hu]
      rw [exec_period_urgent hp removed settled hw, State.modPort_modPort_self]
      simp [none, PortState.closed]
    · have some : q.urgent.isSome = true := by rw [eq]; exact hu
      obtain ⟨v, hv⟩ := Option.isSome_iff_exists.mp some
      rw [exec_period_urgent hp removed settled hw, State.modPort_modPort_self]
      simp [hv, PortState.closed]
    · obtain ⟨hb, known⟩ := queuedForm_code hc hwf
      rw [exec_queued hc, keptBody_of_wellFormed hb] at ht
      obtain rfl := Host.Outcome.next.inj ht
      rw [exec_period_frame hp removed hw,
        State.received_delivered (by rw [port, empty]) o (urgentOfFrame_of_queued known)]
    · obtain ⟨hc, k, hk, fault⟩ := urgent_code_command hf
      have urgent := hw.not_urgent hnot
      rw [exec_period_frame hp removed hw]
      refine ⟨fun hr => ?_, fun hr => ?_⟩
      · have ready : (s.modPort p fun _ => q).Ready p := by
          unfold State.Ready
          rw [port]
          exact ⟨empty, hr⟩
        rw [State.received_delivered (by rw [port, empty]) o urgent, State.deliver_ready ready hc urgent,
          State.perform_formFault hk fault, State.answered, State.modPort_modPort_self, State.modPort_modPort_self]
        rfl
      · rw [State.received_waits (by rw [port]; exact hr) (by rw [port, empty]; decide) o hc urgent, State.modPort_modPort_self,
          empty]
        rfl
  case kept =>
    have removed := State.removed_kept hr hk
    have settled : (s.port p).Settled := .inr (by omega)
    refine ⟨exec_period_nop hp removed settled, fun u => exec_period_urgent hp removed settled, fun f hw hc hnot => ?_⟩
    have urgent := hw.not_urgent hnot
    rw [exec_period_frame hp removed hw]
    refine ⟨fun h3 => ?_, fun h3 => ?_⟩
    · rw [State.received_waits (by omega) (by simp [hq]; omega) o hc urgent]
    · rw [State.received_discarded (by omega) (by simp [hq]; omega) o hc urgent]
  case acts =>
    obtain ⟨removed, waiting, full⟩ := State.removed_acts hq hr ha hl rfl rfl
    refine ⟨_, _, rfl, rfl, fun u => exec_period_urgent hp removed (.inr (by omega)), fun f hw hc hnot => ?_⟩
    rw [exec_period_frame hp removed hw, State.received_waits (by omega) (by rw [waiting]; omega) o hc (hw.not_urgent hnot)]

end Sys2Proof.Machine
end

section
/-! PROOF. Takings (R36 to R41): the refusals, and SET_POWER, SET_THRESHOLDS (R68, R113). -/

namespace Sys2Proof.Machine

/-! ## Refusals (R37, R39) -/

theorem exec_takingOf (kind : ChangeKind) (s : State) : exec (takingOf kind) s = .next (s.takeKind kind) := by
  cases kind <;> rfl

theorem State.isStale_iff (s : State) (e : Entry) : s.isStale e = true ↔ ∃ g, e.expected = some g ∧ g ≠ s.generation := by
  unfold State.isStale
  cases e.expected <;> simp

theorem bandTest_iff (r : SlotRecord) : bandTest r = true ↔ IntervalsInBand r := by
  unfold bandTest IntervalsInBand InsideBand
  simp only [inBand, Bool.and_eq_true, decide_eq_true_eq]
  cases r.fallback with
  | none => simp
  | some f => simp; tauto

theorem halfWidth_nonneg (n : Nat) : 0 ≤ halfWidth n := by
  unfold halfWidth
  split_ifs <;> decide

theorem conflict_iff (r q : SlotRecord) :
    conflict r q = true ↔ ((r.output - q.output).natAbs : Int) < halfWidth r.width + halfWidth q.width := by
  have := halfWidth_nonneg r.width
  have := halfWidth_nonneg q.width
  rw [conflict, decide_eq_true_eq]
  omega

/-- The conflict test fails exactly where some other assigned slot is too near (R15). -/
theorem conflictTest_fails_iff (k : SlotIx) (r : SlotRecord) (s : State) :
    conflictTest k r s = false ↔
      ∃ j, j ≠ k ∧ (s.slot j).record.assigned = true ∧
        ((r.output - (s.slot j).record.output).natAbs : Int) < halfWidth r.width + halfWidth (s.slot j).record.width := by
  rw [← Bool.not_eq_true, conflictTest_iff]
  push Not
  simp only [ne_eq, Bool.not_eq_false, conflict_iff]

theorem State.testChange_assign_clamped (s : State) (k : SlotIx) (r : SlotRecord) :
    s.testChange (clampChange (.assignSlot k r)) =
      if ¬ r.width ≤ 3 then some .badWidth
      else if bandTest r = false then some .outOfBand
      else if conflictTest k r s = false then some .overlap
      else none := by
  have known : widthKnown r.width = decide (r.width ≤ 3) := rfl
  have band : bandTest (clampRecord r) = bandTest r := rfl
  have conf : conflictTest k (clampRecord r) s = conflictTest k r s := rfl
  show (if !widthKnown r.width then some OutcomeCode.badWidth else if !bandTest (clampRecord r) then some .outOfBand
      else if !conflictTest k (clampRecord r) s then some .overlap else none) = _
  rw [known, band, conf]
  simp

/-- A row of Table 2.4.2 that refuses a change is the first test that fails. -/
theorem State.testChange_of_refuses {s : State} {c : Change} {code : OutcomeCode} (h : s.Refuses c code) :
    s.testChange (clampChange c) = some code := by
  cases c with
  | assignSlot k r =>
    rw [State.testChange_assign_clamped]
    cases code with
    | badWidth => exact if_pos (Nat.not_le.mpr h)
    | outOfBand =>
      obtain ⟨width, band⟩ := h
      rw [if_neg (not_not.mpr width), if_pos (Bool.eq_false_iff.mpr fun hb => band ((bandTest_iff r).mp hb))]
    | overlap =>
      obtain ⟨width, band, near⟩ := h
      rw [if_neg (not_not.mpr width), if_neg (by simp [(bandTest_iff r).mpr band]), if_pos ((conflictTest_fails_iff k r s).mpr near)]
    | _ => exact False.elim h
  | releaseSlot k | setPower k | setThresholds k | setSlotEnable k =>
    cases code with
    | emptySlot =>
      have empty : (s.slot k).record.assigned = false := h
      simp [clampChange, State.testChange, empty]
    | _ => exact False.elim h
  | setPlanParams | setTransmit => exact False.elim h
  | loadPreset n =>
    cases code with
    | presetInvalid =>
      have invalid : ¬ (s.store.preset n).isValid = true := fun hv => by
        obtain ⟨img, hi⟩ := (Preset.isValid_iff _).mp hv
        exact h img hi
      simp [clampChange, State.testChange, invalid]
    | storeBusy =>
      obtain ⟨valid, busy⟩ := h
      simp [clampChange, State.testChange, (Preset.isValid_iff _).mpr valid, busy]
    | _ => exact False.elim h
  | clearLockout =>
    cases code with
    | wrongState => exact if_neg h
    | _ => exact False.elim h

/-- Settles O17: a refusal records its outcome and nothing else, and nothing but the table refuses. -/
theorem refusedTakingMovesNothingElse : Obligations.RefusedTakingMovesNothingElse := by
  unfold Obligations.RefusedTakingMovesNothingElse
  intro s e hi hn
  have current : (e.expected = none ∨ e.expected = some s.generation) → s.isStale e = false := fun h => by
    rw [← Bool.not_eq_true, State.isStale_iff]
    rintro ⟨g, hg, hne⟩
    rcases h with h | h <;> rw [h] at hg
    · exact Option.noConfusion rfl (heq_of_eq hg)
    · exact hne (Option.some.inj hg).symm
  rw [exec_takingOf, State.takeKind_due hi hn]
  refine ⟨fun g hg hne => ?_, fun code hc hr => ?_, fun hc hr => ⟨hi, hn, current hc, State.testChange_of_not_refuses hr⟩⟩
  · rw [State.takeEntry_stale (s := s.without e) ((State.isStale_iff s e).mpr ⟨g, hg, hne⟩)]
    rfl
  · rw [State.takeEntry_refused (s := s.without e) (current hc) (State.testChange_of_refuses hr)]
    rfl

/-! ## The change that a taking carries out (R41) -/

section
variable (s : State) (e : Entry)

@[simp] theorem State.without_slot (k : SlotIx) : (s.without e).slot k = s.slot k := rfl
@[simp] theorem State.without_slots : (s.without e).slots = s.slots := rfl
@[simp] theorem State.without_wide : (s.without e).wide = s.wide := rfl
@[simp] theorem State.without_out : (s.without e).out = s.out := rfl
@[simp] theorem State.without_store : (s.without e).store = s.store := rfl
@[simp] theorem State.without_feeds : (s.without e).feeds = s.feeds := rfl
@[simp] theorem State.without_bEff : (s.without e).bEff = s.bEff := rfl
@[simp] theorem State.without_engine : (s.without e).engine = s.engine := rfl
@[simp] theorem State.without_generation : (s.without e).generation = s.generation := rfl
@[simp] theorem State.without_ports : (s.without e).ports = s.ports := rfl
@[simp] theorem State.port_without (p : Port) : (s.without e).port p = s.port p := rfl
@[simp] theorem State.without_holdEmpty : (s.without e).holdEmpty = s.holdEmpty := rfl
@[simp] theorem State.without_demand : (s.without e).demand = s.demand := rfl

end

/-- The taking of a change that passes carries out the clamped change. -/
theorem State.Passes.exec {s : State} {e : Entry} {c : Change} (h : s.Passes e) (hc : e.change = c) :
    exec (takingOf c.kind) s = .next ((s.without e).carryOut e.clamped) := by
  rw [exec_takingOf, ← hc, h.takeKind]

theorem Entry.clamped_change {e : Entry} {c : Change} (h : e.change = c) : e.clamped.change = clampChange c := by
  rw [Entry.clamped, h]

@[simp] theorem State.demand_commit (s : State) (e : Entry) : (s.commit e).demand = s.demand := rfl

theorem State.carryOut_power {s : State} {e : Entry} {k : SlotIx} {p : Nat} (h : e.change = .setPower k p) :
    s.carryOut e = (s.applyPower k p).commit e := by
  rw [State.carryOut, h]

theorem State.carryOut_thresholds {s : State} {e : Entry} {k : SlotIx} {t : Int} {a l r : Nat}
    (h : e.change = .setThresholds k t a l r) : s.carryOut e = (s.applyThresholds k t a l r).commit e := by
  rw [State.carryOut, h]

/-- What every application at the taking leaves beside the plan (R41). -/
theorem State.Passes.applied {s u : State} {e : Entry} (h : s.Passes e) (f : (s.without e).EngineFrame u) :
    Applied s (u.commit e.clamped) e ∧ (u.commit e.clamped).changes = (s.without e).changes ∧
      (u.commit e.clamped).engine = .idle := by
  obtain ⟨hi, -⟩ := h
  exact ⟨(f.applied e.clamped).of_clamped, f.changes, f.engine.trans hi⟩

/-! ## SET_POWER (R113) -/

/-- Settles O18: the request is written, and the grants follow. -/
theorem setPowerWritesTheRequest : Obligations.SetPowerWritesTheRequest := by
  unfold Obligations.SetPowerWritesTheRequest
  intro s e k p h hc
  have carried : exec .setPower s = .next (((s.without e).applyPower k (min 1000 p)).commit e.clamped) :=
    (h.exec hc).trans (congrArg _ (State.carryOut_power (Entry.clamped_change hc)))
  obtain ⟨applied, changes, engine⟩ := h.applied ((s.without e).engineFrame_applyPower k (min 1000 p))
  have slot : ∀ j, ((s.without e).applyPower k (min 1000 p)).slot j =
      State.slot (State.govern ((s.without e).modSlot k fun x => { x with record := { x.record with power := min 1000 p } })) j :=
    fun _ => rfl
  have record : ∀ j, (((s.without e).applyPower k (min 1000 p)).slot j).record =
      if j = k then { (s.slot k).record with power := min 1000 p } else (s.slot j).record := fun j => by
    rw [slot, State.govern_slot_record, State.slot_modSlot]
    split_ifs <;> rfl
  refine ⟨_, carried, applied, changes, engine, fun hp => ?_, fun hp => ?_, fun j hj => ?_, fun j => ?_, fun j => ?_, by simp,
    by simp, by simp, by simp, by simp⟩
  · rw [State.slot_commit, record, if_pos rfl, Nat.min_eq_right hp]
  · rw [State.slot_commit, record, if_pos rfl, Nat.min_eq_left (by omega)]
  · rw [State.slot_commit, record, if_neg hj]
  · rw [State.slot_commit, slot, State.slot_govern, State.slot_modSlot]
    split_ifs with hj
    · subst hj
      simp
    · simp
  · have formed := (State.govern_formed ((s.without e).modSlot k
      fun x => { x with record := { x.record with power := min 1000 p } }) j).1
    rw [State.govern_bEff, State.modSlot_bEff, State.without_bEff] at formed
    rw [State.slot_commit, State.demand_commit, State.applyPower]
    exact formed

/-! ## SET_THRESHOLDS (R68) -/

/-- Settles O19: the clamped thresholds are written, and both dwell counters restart. -/
theorem setThresholdsRestartsTheCounters : Obligations.SetThresholdsRestartsTheCounters := by
  unfold Obligations.SetThresholdsRestartsTheCounters
  intro s e k tLoss hyst lossDwell restoreDwell h hc
  have carried : exec .setThresholds s = .next (((s.without e).applyThresholds k (clampInt (-90) (-20) tLoss) (clampNat 1 15 hyst)
      (clampNat 1 15 lossDwell) (clampNat 1 63 restoreDwell)).commit e.clamped) :=
    (h.exec hc).trans (congrArg _ (State.carryOut_thresholds (Entry.clamped_change hc)))
  obtain ⟨applied, changes, engine⟩ := h.applied ((s.without e).engineFrame_applyThresholds k (clampInt (-90) (-20) tLoss)
    (clampNat 1 15 hyst) (clampNat 1 15 lossDwell) (clampNat 1 63 restoreDwell))
  refine ⟨_, { (s.slot k).record with
      tLoss := clampInt (-90) (-20) tLoss, hyst := clampNat 1 15 hyst, lossDwell := clampNat 1 15 lossDwell,
      restoreDwell := clampNat 1 63 restoreDwell }, carried, applied, changes, engine, ?_, rfl, ?_⟩
  · rw [State.slot_commit, State.applyThresholds, State.slot_modSlot_self]
    rfl
  · simp only [clampInt, clampNat]
    refine ⟨by omega, by omega, by omega, by omega, by omega, by omega, by omega, by omega, by omega, by omega, by omega, by omega,
      by omega, fun j hj => ?_, rfl, rfl, rfl, rfl, rfl⟩
    rw [State.slot_commit, State.applyThresholds, State.slot_modSlot_of_ne _ hj]
    rfl

end Sys2Proof.Machine
end

section
/-! PROOF. The moves of the transmitter (R118 to R126, R132): the state that each leaves, what shows it, and the timers. -/

namespace Sys2Proof.Machine

/-! ## What shows a change of transmitter state (R132) -/

namespace State.ShowsTransmitter

theorem refl (s : State) : s.ShowsTransmitter s := ⟨fun h => absurd rfl h, fun _ _ => rfl⟩

theorem of_moved {s t : State} (h : t.out.state ≠ s.out.state) (hl : ∀ p, (t.port p).latched .txState = true) : s.ShowsTransmitter t :=
  ⟨fun _ => hl, fun e => absurd e h⟩

/-- A step before the move that leaves the transmitter state and TX_STATE alone. -/
theorem after {s t u : State} (h : t.ShowsTransmitter u) (ho : t.out.state = s.out.state)
    (hp : ∀ p, (t.port p).latched .txState = (s.port p).latched .txState) : s.ShowsTransmitter u := by
  obtain ⟨moved, same⟩ := h
  rw [ho] at moved same
  exact ⟨moved, fun e p => (same e p).trans (hp p)⟩

/-- A step after the move that leaves the transmitter state and TX_STATE alone. -/
theorem before {s t u : State} (h : s.ShowsTransmitter t) (ho : u.out.state = t.out.state)
    (hp : ∀ p, (u.port p).latched .txState = (t.port p).latched .txState) : s.ShowsTransmitter u := by
  obtain ⟨moved, same⟩ := h
  unfold State.ShowsTransmitter
  rw [ho]
  exact ⟨fun e p => (hp p).trans (moved e p), fun e p => (hp p).trans (same e p)⟩

end State.ShowsTransmitter

theorem State.latched_commit {c : Cause} (ho : c ≠ .outcome) (hp : c ≠ .plan) (s : State) (e : Entry) (p : Port) :
    ((s.commit e).port p).latched c = (s.port p).latched c := by
  by_cases h : p = e.origin
  · subst h
    rw [State.port_commit_self]
    exact (PortState.latched_or _ _ _).trans (by simp [ho.symm])
  · obtain rfl : p = otherPort e.origin := by
      revert h; cases p <;> cases e.origin <;> simp [otherPort]
    rw [State.port_commit_other]
    exact (PortState.latched_or _ _ _).trans (by simp [hp.symm])

theorem State.ShowsTransmitter.commit {s t : State} (h : s.ShowsTransmitter t) (e : Entry) : s.ShowsTransmitter (t.commit e) :=
  h.before rfl fun p => State.latched_commit (by decide) (by decide) t e p

/-! ## The entries into WARMUP and ON_AIR (R119 to R121) -/

theorem State.enterWarmUp_eq (s : State) : s.enterWarmUp = s.setTx (if s.out.level = .trip then .tripped else .warmUp) := by
  unfold State.enterWarmUp
  split_ifs <;> rfl

theorem State.enterWarmUp_shows (s : State) (p : Port) : (s.enterWarmUp.port p).latched .txState = true := by
  rw [State.enterWarmUp_eq]
  exact s.latched_setTx _ p

theorem State.enterWarmUp_entered (s : State) : s.WarmUpEntered s.enterWarmUp := by
  refine ⟨fun h => ?_, fun h => ?_⟩
  · rw [State.enterWarmUp_of_ne h, State.setTx_out, State.setTx_wide]
    exact ⟨rfl, rfl, _, rfl, warmUpTime_ms⟩
  · rw [State.enterWarmUp_of_trip h, State.setTx_out]
    exact ⟨rfl, rfl, rfl⟩

theorem State.enterWarmUp_state (s : State) : s.enterWarmUp.out.state = if s.out.level = .trip then .tripped else .warmUp := by
  rw [State.enterWarmUp_eq, State.setTx_out]

theorem State.enterWarmUp_state_ne (s : State) :
    s.enterWarmUp.out.state ≠ .offAir ∧ s.enterWarmUp.out.state ≠ .standby ∧ s.enterWarmUp.out.state ≠ .onAir ∧
      s.enterWarmUp.out.state ≠ .lockout := by
  rw [State.enterWarmUp_state]
  split_ifs <;> simp

theorem State.enterWarmUp_slots (s : State) : s.enterWarmUp.slots = s.slots := by
  rw [State.enterWarmUp_eq, State.setTx_slots]

/-- Outside ON_AIR the quiet timer stands (R121). -/
theorem State.setTx_quiet (s : State) {t : TxState} (h : t ≠ .onAir) : (s.setTx t).out.quiet = none ∧ ¬ (s.setTx t).Quiet := by
  rw [State.setTx_out, if_neg h]
  exact ⟨rfl, fun hq => h (by simpa using hq.1)⟩

theorem State.enterWarmUp_quiet (s : State) : s.enterWarmUp.out.quiet = none ∧ ¬ s.enterWarmUp.Quiet := by
  rw [State.enterWarmUp_eq]
  exact s.setTx_quiet (by split_ifs <;> simp)

/-! ## A wake (R126) -/

theorem State.wake_standby {s : State} (h : s.out.state = .standby) : s.wake = s.enterWarmUp := by
  rw [State.wake, h]

theorem State.wake_closing {s : State} (h : s.out.state = .closing .standby) : s.wake = s.enterOnAir := by
  rw [State.wake, h]

theorem State.wake_same {s : State} (h : s.out.state ≠ .standby) (h' : s.out.state ≠ .closing .standby) : s.wake = s := by
  unfold State.wake
  split
  · exact absurd ‹_› h
  · exact absurd ‹_› h'
  · rfl

theorem State.wake_cases (s : State) :
    (s.out.state = .standby ∧ s.wake = s.enterWarmUp) ∨ (s.out.state = .closing .standby ∧ s.wake = s.enterOnAir) ∨
      (s.out.state ≠ .standby ∧ s.out.state ≠ .closing .standby ∧ s.wake = s) := by
  by_cases h : s.out.state = .standby
  · exact .inl ⟨h, State.wake_standby h⟩
  · by_cases h' : s.out.state = .closing .standby
    · exact .inr (.inl ⟨h', State.wake_closing h'⟩)
    · exact .inr (.inr ⟨h, h', State.wake_same h h'⟩)

/-- A wake that leaves the transmitter state leaves everything. -/
theorem State.wake_of_state {s : State} (h : s.wake.out.state = s.out.state) : s.wake = s := by
  rcases s.wake_cases with ⟨hs, hw⟩ | ⟨hs, hw⟩ | ⟨-, -, hw⟩
  · rw [hw, hs] at h
    exact absurd h s.enterWarmUp_state_ne.2.1
  · rw [hw, hs, s.enterOnAir_out.1] at h
    exact absurd h (by simp)
  · exact hw

theorem State.showsTransmitter_enterOnAir {s : State} (h : s.out.state ≠ .onAir) : s.ShowsTransmitter s.enterOnAir :=
  .of_moved (by rw [s.enterOnAir_out.1]; exact h.symm) s.enterOnAir_shows

theorem State.showsTransmitter_wake (s : State) : s.ShowsTransmitter s.wake := by
  rcases s.wake_cases with ⟨hs, hw⟩ | ⟨hs, hw⟩ | ⟨-, -, hw⟩ <;> rw [hw]
  · exact .of_moved (by rw [hs]; exact s.enterWarmUp_state_ne.2.1) s.enterWarmUp_shows
  · exact State.showsTransmitter_enterOnAir (by simp [hs])
  · exact .refl s

/-! ## The closing (R124) -/

theorem State.showsTransmitter_enterClosing {s : State} (h : s.out.state = .onAir) (g : Target) :
    s.ShowsTransmitter (s.enterClosing g) := by
  obtain ⟨closed, closing, -, -, -, shown⟩ := s.enterClosing_out g
  refine .of_moved ?_ shown
  by_cases hk : ∀ k, ((s.enterClosing g).slot k).ramp.state = .off
  · rw [(closed hk).1, h]
    cases g <;> simp [Target.state]
  · rw [(closing (not_forall.mp hk)).1, h]
    simp

theorem State.showsTransmitter_quietExpired (s : State) : s.ShowsTransmitter s.quietExpired := by
  unfold State.quietExpired
  split_ifs with h
  · exact State.showsTransmitter_enterClosing h _
  · exact .refl s

theorem State.showsTransmitter_measureQuiet (s : State) : s.ShowsTransmitter s.measureQuiet := by
  have formed : s.ShowsTransmitter s.formQuiet := .of_same (by simp) (by simp)
  unfold State.measureQuiet
  split
  · split_ifs
    · exact (State.showsTransmitter_quietExpired _).after (by simp) (by simp)
    · exact formed
  · exact formed

/-! ## tx_enable (R118) -/

theorem State.txEnabled_cases (s : State) :
    (s.out.state = .offAir ∧ s.txEnabled = s.enterWarmUp) ∨ (s.out.state = .closing .offAir ∧ s.txEnabled = s.enterOnAir) ∨
      (s.out.state ≠ .offAir ∧ s.out.state ≠ .closing .offAir ∧ s.txEnabled = s) := by
  by_cases h : s.out.state = .offAir
  · exact .inl ⟨h, State.txEnabled_offAir h⟩
  · by_cases h' : s.out.state = .closing .offAir
    · exact .inr (.inl ⟨h', State.txEnabled_closing h'⟩)
    · exact .inr (.inr ⟨h, h', State.txEnabled_same h h'⟩)

theorem State.showsTransmitter_txEnabled (s : State) : s.ShowsTransmitter s.txEnabled := by
  rcases s.txEnabled_cases with ⟨hs, hw⟩ | ⟨hs, hw⟩ | ⟨-, -, hw⟩ <;> rw [hw]
  · exact .of_moved (by rw [hs]; exact s.enterWarmUp_state_ne.1) s.enterWarmUp_shows
  · exact State.showsTransmitter_enterOnAir (by simp [hs])
  · exact .refl s

theorem State.showsTransmitter_setTx {s : State} {t : TxState} (h : t ≠ s.out.state) : s.ShowsTransmitter (s.setTx t) :=
  .of_moved (by rwa [State.setTx_out]) (s.latched_setTx t)

theorem State.showsTransmitter_txDisabled (s : State) : s.ShowsTransmitter s.txDisabled := by
  unfold State.txDisabled
  split
  next h => exact State.showsTransmitter_setTx (by simp [h])
  next h => exact State.showsTransmitter_enterClosing h _
  next h => exact State.showsTransmitter_setTx (by simp [h])
  next h => exact State.showsTransmitter_setTx (by simp [h])
  next => exact .refl s

theorem State.showsTransmitter_txEnableWritten (s : State) (v : Bool) : s.ShowsTransmitter (s.txEnableWritten v) := by
  unfold State.txEnableWritten
  split_ifs
  · exact .refl s
  · exact s.showsTransmitter_txEnabled
  · exact s.showsTransmitter_txDisabled

end Sys2Proof.Machine
end

section
/-! PROOF. SET_SLOT_ENABLE (R42, R90, R91, R122, R126, R133). -/

namespace Sys2Proof.Machine

theorem State.AirFrame.wants {s t : State} (h : s.AirFrame t) (k : SlotIx) : (t.slot k).Wants ↔ (s.slot k).Wants := by
  rw [← Slot.wanted_iff, ← Slot.wanted_iff, h.wanted]

/-- The on-demand condition of one slot formed anew turns its ramp (R90, R91). -/
theorem State.reformSlot_turned (s : State) (k : SlotIx) :
    (s.out.state = .onAir ∧ s.holdEmpty = true ∧ (s.slot k).Wants →
        TurnedUp s.wide.rampStep (s.slot k).ramp ((s.reformSlot k).slot k).ramp) ∧
      (¬ (s.out.state = .onAir ∧ s.holdEmpty = true ∧ (s.slot k).Wants) →
        TurnedDown s.wide.rampStep (s.slot k).ramp ((s.reformSlot k).slot k).ramp) := by
  rw [← State.onDemand_iff, State.reformSlot_slot_ramp_self]
  refine ⟨fun h => ?_, fun h => ?_⟩
  · rw [h]
    exact Ramp.react_true _ _
  · rw [Bool.eq_false_iff.mpr h]
    exact Ramp.react_false _ _

/-! ## The field written, and D and Q formed anew -/

def State.enableSet (s : State) (k : SlotIx) (v : Bool) : State :=
  s.modSlot k fun x => { x with record := { x.record with enabled := v } }

/-- The enabled field written, D and Q formed anew, before any wake. -/
def State.enableWritten (s : State) (k : SlotIx) (v : Bool) : State := ((s.enableSet k v).reformSlot k).formQuiet

theorem State.enableSet_slot_self (s : State) (k : SlotIx) (v : Bool) :
    (s.enableSet k v).slot k = { s.slot k with record := { (s.slot k).record with enabled := v } } := State.slot_modSlot_self _ _ _

theorem State.enableSet_slot_of_ne (s : State) {j k : SlotIx} (h : j ≠ k) (v : Bool) : (s.enableSet k v).slot j = s.slot j :=
  State.slot_modSlot_of_ne _ h _

theorem State.airFrame_enableWritten (s : State) (k : SlotIx) (v : Bool) : (s.enableSet k v).AirFrame (s.enableWritten k v) :=
  (State.airFrame_reformSlot _ k).trans (State.airFrame_formQuiet _)

theorem State.applyEnable_eq (s : State) (k : SlotIx) (v : Bool) :
    s.applyEnable k v =
      if !(s.slot k).waking && ((s.enableWritten k v).slot k).waking && ((s.enableWritten k v).slot k).hasSource then
        (s.enableWritten k v).wake
      else s.enableWritten k v := rfl

/-- What enabling a slot calls a wake (R126). -/
def Slot.EnablingWakes (x : Slot) (v : Bool) : Prop :=
  v = true ∧ x.record.enabled = false ∧ x.record.wakes = true ∧ x.sel.source ≠ .lost

theorem State.applyEnable_wakes {s : State} {k : SlotIx} (ha : (s.slot k).record.assigned = true) (v : Bool) :
    ((s.slot k).EnablingWakes v → s.applyEnable k v = (s.enableWritten k v).wake) ∧
      (¬ (s.slot k).EnablingWakes v → s.applyEnable k v = s.enableWritten k v) := by
  have frame := s.airFrame_enableWritten k v
  have calls : (!(s.slot k).waking && ((s.enableWritten k v).slot k).waking && ((s.enableWritten k v).slot k).hasSource) = true ↔
      (s.slot k).EnablingWakes v := by
    simp only [Slot.waking, Slot.hasSource, frame.record, frame.sel, State.enableSet_slot_self, ha, Slot.EnablingWakes]
    cases v <;> cases (s.slot k).record.enabled <;> cases (s.slot k).record.wakes <;> simp
  rw [State.applyEnable_eq, ← calls]
  exact ⟨fun h => if_pos h, fun h => if_neg h⟩

theorem State.airFrame_applyEnable (s : State) (k : SlotIx) (v : Bool) : (s.enableWritten k v).AirFrame (s.applyEnable k v) := by
  rw [State.applyEnable_eq]
  split_ifs
  · exact State.airFrame_wake _
  · exact .refl _

theorem State.enableWritten_out (s : State) (k : SlotIx) (v : Bool) :
    (s.enableWritten k v).out = { s.out with quiet := (s.enableWritten k v).out.quiet } := by
  simp [State.enableWritten, State.enableSet]

theorem State.enableWritten_holdEmpty (s : State) (k : SlotIx) (v : Bool) : (s.enableWritten k v).holdEmpty = s.holdEmpty :=
  (s.airFrame_enableWritten k v).holdEmpty

theorem State.enableWritten_quiet (s : State) (k : SlotIx) (v : Bool) :
    ((s.enableWritten k v).out.quiet.isSome = true ↔ (s.enableWritten k v).Quiet) ∧
      ∀ ms, (s.enableWritten k v).out.quiet = some ms → ms = s.out.quiet.getD 0 := by
  have formed := ((s.enableSet k v).reformSlot k).formQuiet_forms
  rw [State.reformSlot_out] at formed
  exact formed

theorem State.enableWritten_ramp_of_ne (s : State) {j k : SlotIx} (h : j ≠ k) (v : Bool) :
    ((s.enableWritten k v).slot j).ramp = (s.slot j).ramp := by
  rw [State.enableWritten, State.slot_formQuiet, State.reformSlot_slot_ramp_of_ne _ h, State.enableSet_slot_of_ne s h]

theorem State.enableWritten_ramp_self (s : State) (k : SlotIx) (v : Bool) :
    (s.out.state = .onAir ∧ s.holdEmpty = true ∧ ((s.enableWritten k v).slot k).Wants →
        TurnedUp s.wide.rampStep (s.slot k).ramp ((s.enableWritten k v).slot k).ramp) ∧
      (¬ (s.out.state = .onAir ∧ s.holdEmpty = true ∧ ((s.enableWritten k v).slot k).Wants) →
        TurnedDown s.wide.rampStep (s.slot k).ramp ((s.enableWritten k v).slot k).ramp) := by
  have turned := (s.enableSet k v).reformSlot_turned k
  rw [← (s.airFrame_enableWritten k v).wants k, State.enableSet_slot_self] at turned
  rw [State.enableWritten, State.slot_formQuiet] at *
  exact turned

/-! ## The taking -/

theorem State.carryOut_enable {s : State} {e : Entry} {k : SlotIx} {v : Bool} (h : e.change = .setSlotEnable k v) :
    s.carryOut e = (s.applyEnable k v).commit e := by
  rw [State.carryOut, h]

theorem State.Passes.assigned {s : State} {e : Entry} {k : SlotIx} (h : s.Passes e)
    (hc : s.testChange (clampChange e.change) = if (s.slot k).record.assigned then none else some OutcomeCode.emptySlot) :
    (s.slot k).record.assigned = true := by
  obtain ⟨-, -, -, ht⟩ := h
  rw [hc] at ht
  exact State.testChange_of_empty ht

/-- What a wake that enabling calls brings: the transmitter comes back, and the quiet condition does not hold. -/
theorem State.applyEnable_woken {s : State} {k : SlotIx} {v : Bool} (ha : (s.slot k).record.assigned = true)
    (hw : (s.slot k).EnablingWakes v) :
    ¬ (s.applyEnable k v).Quiet := by
  have frame := (s.airFrame_enableWritten k v).trans (s.airFrame_applyEnable k v)
  rintro ⟨-, -, -, lost⟩
  have := lost k (by rw [frame.record, State.enableSet_slot_self]; exact ha)
    (by rw [frame.record, State.enableSet_slot_self]; exact hw.1)
  rw [frame.sel, State.enableSet_slot_self] at this
  exact hw.2.2.2 this

/-- The quiet timer runs exactly where the quiet condition holds after SET_SLOT_ENABLE. -/
theorem State.applyEnable_quiet {s : State} {k : SlotIx} (ha : (s.slot k).record.assigned = true) (v : Bool) :
    ((s.applyEnable k v).out.quiet.isSome = true ↔ (s.applyEnable k v).Quiet) ∧
      ∀ ms, (s.applyEnable k v).out.quiet = some ms → ms = s.out.quiet.getD 0 := by
  have formed := s.enableWritten_quiet k v
  obtain ⟨wakes, stays⟩ := State.applyEnable_wakes ha v
  by_cases hw : (s.slot k).EnablingWakes v
  · have loud := State.applyEnable_woken ha hw
    rw [wakes hw] at loud ⊢
    rcases (s.enableWritten k v).wake_cases with ⟨-, hu⟩ | ⟨-, hu⟩ | ⟨-, -, hu⟩ <;> rw [hu] at loud ⊢
    · obtain ⟨none, -⟩ := (s.enableWritten k v).enterWarmUp_quiet
      rw [none]
      exact ⟨iff_of_false (by simp) loud, fun _ h => by cases h⟩
    · obtain ⟨runs, -⟩ := (s.enableWritten k v).enterOnAir_quiet
      exact ⟨runs, fun ms h => absurd (runs.mp (by rw [h]; rfl)) loud⟩
    · exact formed
  · rw [stays hw]
    exact formed

/-- Settles O20: the field is written, the slot's ramp follows its condition, and the transmitter a wake. -/
theorem setSlotEnableMovesTheRamp : Obligations.SetSlotEnableMovesTheRamp := by
  unfold Obligations.SetSlotEnableMovesTheRamp
  intro s e k v h hc
  have ha := h.assigned (k := k) (by rw [hc]; rfl)
  have carried : exec .setSlotEnable s = .next (((s.without e).applyEnable k v).commit e.clamped) :=
    (h.exec hc).trans (congrArg _ (State.carryOut_enable (Entry.clamped_change hc)))
  obtain ⟨applied, changes, engine⟩ := h.applied ((s.without e).engineFrame_applyEnable k v)
  obtain ⟨wakes, stays⟩ := State.applyEnable_wakes (s := s.without e) ha v
  have frame := ((s.without e).airFrame_enableWritten k v).trans ((s.without e).airFrame_applyEnable k v)
  have air := (s.without e).airFrame_applyEnable k v
  have quiet := State.applyEnable_quiet (s := s.without e) ha v
  have out := (s.without e).enableWritten_out k v
  have other := fun j hj => (s.without e).enableWritten_ramp_of_ne (j := j) (k := k) hj v
  have self := (s.without e).enableWritten_ramp_self k v
  have empty := (s.without e).enableWritten_holdEmpty k v
  have record : ∀ j, (((s.without e).enableSet k v).slot j).record =
      if j = k then { (s.slot k).record with enabled := v } else (s.slot j).record := fun j => by
    split_ifs with hj
    · subst hj
      rw [State.enableSet_slot_self, State.without_slot]
    · rw [State.enableSet_slot_of_ne _ hj, State.without_slot]
  have kept : ∀ j, ((s.without e).enableSet k v).slot j =
      { s.slot j with record := (((s.without e).enableSet k v).slot j).record } := fun j => by
    by_cases hj : j = k
    · subst hj
      rw [State.enableSet_slot_self]
      rfl
    · rw [State.enableSet_slot_of_ne _ hj]
      rfl
  have shown : s.ShowsTransmitter ((s.without e).applyEnable k v) := by
    have state : ((s.without e).enableWritten k v).out.state = s.out.state := by rw [out]; rfl
    have port : ∀ p, ((s.without e).enableWritten k v).port p = s.port p := fun p => by
      simp [State.enableWritten, State.enableSet]
    have stays' : s.ShowsTransmitter ((s.without e).enableWritten k v) := .of_same state fun p => by rw [port]
    by_cases hw : ((s.without e).slot k).EnablingWakes v
    · rw [wakes hw]
      exact (State.showsTransmitter_wake _).after state fun p => by rw [port]
    · rwa [stays hw]
  have wide : ((s.without e).applyEnable k v).wide = s.wide := frame.wide
  have store : ((s.without e).applyEnable k v).store = s.store := frame.store
  have feeds : ((s.without e).applyEnable k v).feeds = s.feeds := frame.feeds
  have bEff : ((s.without e).applyEnable k v).bEff = s.bEff := frame.bEff
  have hold : ((s.without e).applyEnable k v).out.hold = s.out.hold := frame.hold
  have trips : ((s.without e).applyEnable k v).out.trips = s.out.trips := frame.trips
  generalize (s.without e).applyEnable k v = u at *
  generalize (s.without e).enableWritten k v = t at *
  simp only [State.without_slot, State.without_wide, State.without_out, State.without_holdEmpty] at *
  have state : t.out.state = s.out.state := by rw [out]
  have woken : u = t.wake ∨ u = t := (em _).imp wakes stays
  have same : u.out.state = s.out.state → u = t := fun hu => by
    rcases woken with rfl | rfl
    · exact State.wake_of_state (hu.trans state.symm)
    · rfl
  have calm : s.out.state ≠ .standby → s.out.state ≠ .closing .standby → u = t := fun h1 h2 => by
    rcases woken with rfl | rfl
    · exact State.wake_same (by rwa [state]) (by rwa [state])
    · rfl
  have wants : ∀ j, (u.slot j).Wants ↔ (t.slot j).Wants := air.wants
  refine ⟨u.commit e.clamped, carried, applied, changes, engine, ?record, fun j hj => ?others, fun j => ?slots, fun hv => ?disabled,
    fun hv hs he hw => ?up, fun hv hs hn => ?down, fun hs j hj => ?ramps, fun hs ht j hl => ?closing, quiet.1, quiet.2,
    fun hv hen hwk hsrc => ⟨fun hs => ?standby, fun hs => ?onAir⟩, fun hn => ?output, shown.commit _, wide, store, feeds, bEff, hold, trips⟩
  case record => rw [State.slot_commit, frame.record, record, if_pos rfl]
  case others => rw [State.slot_commit, frame.record, record, if_neg hj]
  case slots =>
    rw [State.slot_commit, frame.words, frame.primary, frame.fallback, frame.sel, frame.retuning, kept j]
    exact ⟨rfl, rfl, rfl, rfl, rfl⟩
  case disabled =>
    obtain rfl := stays fun hw => by simp [hv] at hw; exact Bool.false_ne_true hw.1
    refine ⟨self.2 fun hw => ?_, state, fun j hj => other j hj⟩
    have := hw.2.2.2.1
    rw [frame.record, record, if_pos rfl, hv] at this
    exact Bool.false_ne_true this
  case up =>
    obtain rfl := calm (by simp [hs]) (by simp [hs])
    exact ⟨self.1 ⟨hs, he, hw⟩, state.trans hs⟩
  case down =>
    obtain rfl := same hs
    exact self.2 hn
  case ramps =>
    obtain rfl := same hs
    exact other j hj
  case closing =>
    obtain rfl : u = t.enterOnAir := by
      rcases woken with rfl | rfl
      · exact State.wake_closing (state.trans hs)
      · rw [State.commit_out, state, hs] at ht
        exact absurd ht (by simp)
    have low : (t.slot j).ramp = (s.slot j).ramp := by
      by_cases hk : j = k
      · subst hk
        obtain ⟨-, -, -, down, off⟩ := self.2 fun ho => by simp [hs] at ho
        exact hl.elim off down
      · exact other j hk
    rw [State.slot_commit]
    obtain ⟨up, down⟩ := t.enterOnAir_ramp j
    rw [low, empty, ← air.wide, wide, ← wants] at up down
    refine ⟨up, fun hn => ?_⟩
    obtain ⟨-, -, -, keeps, keepsOff⟩ := down hn
    rcases hl with hl | hl
    · exact keepsOff hl
    · exact keeps hl
  case standby =>
    obtain rfl := (wakes ⟨hv, hen, hwk, hsrc⟩).trans (State.wake_standby (state.trans hs))
    have entered := t.enterWarmUp_entered
    unfold State.WarmUpEntered at entered ⊢
    rw [out] at entered
    exact entered
  case onAir =>
    obtain rfl := (wakes ⟨hv, hen, hwk, hsrc⟩).trans (State.wake_closing (state.trans hs))
    exact t.enterOnAir_out
  case output =>
    obtain rfl : u = t := by
      by_cases hw : (s.slot k).EnablingWakes v
      · obtain ⟨hv, hen, hwk, hsrc⟩ := hw
        have : s.out.state ≠ .standby ∧ s.out.state ≠ .closing .standby := by simpa [hv, hen, hwk, hsrc] using hn
        exact calm this.1 this.2
      · exact stays hw
    exact out

end Sys2Proof.Machine
end

section
/-! PROOF. SET_TRANSMIT, CLEAR_LOCKOUT and SET_PLAN_PARAMS (R118, R123, R131). -/

namespace Sys2Proof.Machine

theorem State.quiet_commit (s : State) (e : Entry) : (s.commit e).Quiet ↔ s.Quiet := Iff.rfl

/-! ## SET_TRANSMIT (R118) -/

theorem State.txDisabled_warmUp {s : State} (h : s.out.state = .warmUp) : s.txDisabled = s.setTx .offAir := by
  rw [State.txDisabled, h]

theorem State.txDisabled_onAir {s : State} (h : s.out.state = .onAir) : s.txDisabled = s.enterClosing .offAir := by
  rw [State.txDisabled, h]

theorem State.txDisabled_closing {s : State} (h : s.out.state = .closing .standby) : s.txDisabled = s.setTx (.closing .offAir) := by
  rw [State.txDisabled, h]

theorem State.txDisabled_standby {s : State} (h : s.out.state = .standby) : s.txDisabled = s.setTx .offAir := by
  rw [State.txDisabled, h]

theorem State.txDisabled_stopped {s : State} (h : s.out.state = .tripped ∨ s.out.state = .lockout) : s.txDisabled = s := by
  rcases h with h | h <;> rw [State.txDisabled, h]

theorem State.txEnabled_stopped {s : State} (h : s.out.state = .tripped ∨ s.out.state = .lockout) : s.txEnabled = s := by
  rcases h with h | h <;> exact State.txEnabled_same (by simp [h]) (by simp [h])

theorem State.txEnableWritten_same {s : State} {v : Bool} (h : s.wide.txEnable = v) : s.txEnableWritten v = s := if_pos h

theorem State.txEnableWritten_enabled {s : State} {v : Bool} (h : s.wide.txEnable = true) (hv : v = false) :
    s.txEnableWritten v = s.txEnabled := by
  rw [State.txEnableWritten, if_neg (by simp [h, hv]), if_pos h]

theorem State.txEnableWritten_disabled {s : State} {v : Bool} (h : s.wide.txEnable = false) (hv : v = true) :
    s.txEnableWritten v = s.txDisabled := by
  rw [State.txEnableWritten, if_neg (by simp [h, hv]), if_neg (by simp [h])]

/-- The plan with tx_enable written, before the transmitter acts. -/
def State.txSet (s : State) (v : Bool) : State := { s with wide := { s.wide with txEnable := v } }

theorem State.carryOut_transmit {s : State} {e : Entry} {v : Bool} (h : e.change = .setTransmit v) :
    s.carryOut e = ((s.txSet v).txEnableWritten s.wide.txEnable).commit e := by
  rw [State.carryOut, h]
  rfl

/-- Settles O22: tx_enable is written, and a change of it moves the transmitter. -/
theorem setTransmitMovesTheTransmitter : Obligations.SetTransmitMovesTheTransmitter := by
  unfold Obligations.SetTransmitMovesTheTransmitter
  intro s e v h hc
  have carried : exec .setTransmit s = .next ((((s.without e).txSet v).txEnableWritten s.wide.txEnable).commit e.clamped) :=
    (h.exec hc).trans (congrArg _ (State.carryOut_transmit (Entry.clamped_change hc)))
  obtain ⟨applied, changes, engine⟩ := h.applied ((s.without e).engineFrame_applyTransmit v)
  have frame := ((s.without e).txSet v).airFrame_txEnableWritten s.wide.txEnable
  have shown : s.ShowsTransmitter (((s.without e).txSet v).txEnableWritten s.wide.txEnable) :=
    (((s.without e).txSet v).showsTransmitter_txEnableWritten s.wide.txEnable).after rfl fun _ => rfl
  have slot : ∀ k, ((s.without e).txSet v).slot k = s.slot k := fun _ => rfl
  have out : ((s.without e).txSet v).out = s.out := rfl
  have empty : ((s.without e).txSet v).holdEmpty = s.holdEmpty := rfl
  have slots : ((s.without e).txSet v).slots = s.slots := rfl
  have wide : ((s.without e).txSet v).wide = { s.wide with txEnable := v } := rfl
  have store : ((s.without e).txSet v).store = s.store := rfl
  have feeds : ((s.without e).txSet v).feeds = s.feeds := rfl
  have bEff : ((s.without e).txSet v).bEff = s.bEff := rfl
  unfold State.applyTransmit at applied changes engine
  change Applied s ((((s.without e).txSet v).txEnableWritten s.wide.txEnable).commit e.clamped) e at applied
  change ((((s.without e).txSet v).txEnableWritten s.wide.txEnable).commit e.clamped).changes = _ at changes
  change ((((s.without e).txSet v).txEnableWritten s.wide.txEnable).commit e.clamped).engine = _ at engine
  generalize (s.without e).txSet v = x at *
  refine ⟨_, carried, applied, changes, engine, frame.wide.trans wide, fun k => ?slots, fun hv => ?unchanged, fun hs hv => ?enabled,
    fun hs hv => ?disabled, shown.commit _, frame.store.trans store, frame.feeds.trans feeds, frame.bEff.trans bEff,
    frame.hold.trans (by rw [out]), frame.trips.trans (by rw [out])⟩
  case slots =>
    rw [State.slot_commit, frame.record, frame.words, frame.primary, frame.fallback, frame.sel, frame.retuning, slot]
    exact ⟨rfl, rfl, rfl, rfl, rfl, rfl⟩
  case unchanged =>
    rw [State.commit_out, State.commit_slots, State.txEnableWritten_same (by rw [wide, hv])]
    exact ⟨out, slots⟩
  case enabled =>
    have state : x.out.state = s.out.state := by rw [out]
    rw [State.txEnableWritten_enabled (by rw [wide, hv]) hs]
    refine ⟨fun ho hl => ?_, fun ho hl => ?_, fun ho => ?_, fun ho => ?_⟩
    · rw [State.txEnabled_offAir (state.trans ho), State.commit_out]
      obtain ⟨entered, -⟩ := x.enterWarmUp_entered
      obtain ⟨state, paEn, ms, timer, time⟩ := entered (by rwa [out])
      exact ⟨state, paEn, ms, timer, by rwa [(State.airFrame_enterWarmUp x).wide, wide] at time⟩
    · rw [State.txEnabled_offAir (state.trans ho), State.commit_out]
      exact x.enterWarmUp_entered.2 (by rwa [out])
    · rw [State.txEnabled_closing (state.trans ho), State.commit_out]
      obtain ⟨onAir, paEn, warmUp⟩ := x.enterOnAir_out
      have quiet := x.enterOnAir_quiet
      rw [out] at quiet
      rw [State.quiet_commit]
      refine ⟨onAir, paEn, warmUp, fun k => ?_, quiet⟩
      rw [State.slot_commit]
      have ramp := x.enterOnAir_ramp k
      rw [empty, slot, wide] at ramp
      exact ramp
    · rw [State.txEnabled_stopped (by rwa [state]), State.commit_out]
      exact out
  case disabled =>
    have state : x.out.state = s.out.state := by rw [out]
    rw [State.txEnableWritten_disabled (by rw [wide, hv]) hs]
    refine ⟨fun ho => ?_, fun ho => ?_, fun ho => ?_, fun ho => ?_, fun ho => ?_⟩
    · rw [State.txDisabled_warmUp (state.trans ho), State.commit_out, State.setTx_out]
      exact ⟨rfl, rfl, rfl⟩
    · rw [State.txDisabled_onAir (state.trans ho)]
      obtain ⟨closed, closing, quiet, -, turned, -⟩ := x.enterClosing_out .offAir
      have target : Target.offAir.state = TxState.offAir := rfl
      rw [target] at closed
      simp only [wide, slot] at turned
      generalize x.enterClosing .offAir = u at *
      exact ⟨closed, closing, quiet, turned⟩
    · rw [State.txDisabled_closing (state.trans ho), State.commit_out, State.setTx_out]
      exact ⟨rfl, rfl, fun k => by rw [State.slot_commit, State.slot_congr (State.setTx_slots _ _), slot]⟩
    · rw [State.txDisabled_standby (state.trans ho), State.commit_out, State.setTx_out]
      exact ⟨rfl, rfl⟩
    · rw [State.txDisabled_stopped (by rwa [state]), State.commit_out]
      exact out

/-! ## CLEAR_LOCKOUT (R131) -/

/-- The transmitter released from LOCKOUT, before tx_enable is looked at. -/
def State.lockoutLeft (s : State) : State := ({ s with out := { s.out with trips := [] } }).setTx .offAir

theorem State.applyClearLockout_eq (s : State) :
    s.applyClearLockout = if s.wide.txEnable then s.lockoutLeft.enterWarmUp else s.lockoutLeft := rfl

theorem State.carryOut_lockout {s : State} {e : Entry} (h : e.change = .clearLockout) :
    s.carryOut e = s.applyClearLockout.commit e := by
  rw [State.carryOut, h]

theorem State.lockoutLeft_out (s : State) :
    s.lockoutLeft.out = { s.out with state := .offAir, paEn := false, trips := [], warmUp := none, quiet := none } := by
  rw [State.lockoutLeft, State.setTx_out]
  rfl

/-- Settles O27: the history is emptied, and the transmitter starts anew. -/
theorem clearLockoutReleasesTheTransmitter : Obligations.ClearLockoutReleasesTheTransmitter := by
  unfold Obligations.ClearLockoutReleasesTheTransmitter
  intro s e h hc
  have carried : exec .clearLockout s = .next ((s.without e).applyClearLockout.commit e.clamped) :=
    (h.exec hc).trans (congrArg _ (State.carryOut_lockout (Entry.clamped_change hc)))
  obtain ⟨applied, changes, engine⟩ := h.applied (s.without e).engineFrame_applyClearLockout
  have eq := (s.without e).applyClearLockout_eq
  have out := (s.without e).lockoutLeft_out
  have shown := State.latched_setTx { s.without e with out := { s.out with trips := [] } } .offAir
  change ∀ q, ((s.without e).lockoutLeft.port q).latched .txState = true at shown
  have slots : (s.without e).lockoutLeft.slots = s.slots := State.setTx_slots _ _
  have wide : (s.without e).lockoutLeft.wide = s.wide := State.setTx_wide _ _
  have store : (s.without e).lockoutLeft.store = s.store := State.setTx_store _ _
  have feeds : (s.without e).lockoutLeft.feeds = s.feeds := State.setTx_feeds _ _
  have bEff : (s.without e).lockoutLeft.bEff = s.bEff := State.setTx_bEff _ _
  rw [State.without_out] at out
  rw [State.without_wide] at eq
  generalize (s.without e).lockoutLeft = x at *
  have frame := x.airFrame_enterWarmUp
  cases hv : s.wide.txEnable with
  | false =>
    rw [hv, if_neg (by simp)] at eq
    rw [eq] at carried applied changes engine
    refine ⟨_, carried, applied, changes, engine, ?_, fun p => ?_, fun _ => ?_, fun ht => by simp at ht, fun ht => by simp at ht, slots, wide, store, feeds, bEff, ?_⟩
    · rw [State.commit_out, out]
    · rw [State.latched_commit (by decide) (by decide)]
      exact shown p
    · rw [State.commit_out, out]
      exact ⟨rfl, rfl⟩
    · rw [State.commit_out, out]
  | true =>
    rw [hv, if_pos rfl] at eq
    rw [eq] at carried applied changes engine
    obtain ⟨warm, tripped⟩ := x.enterWarmUp_entered
    have ramps := x.enterWarmUp_slots
    have shows := x.enterWarmUp_shows
    have level : x.out.level = s.out.level := by rw [out]
    rw [level] at warm tripped
    generalize x.enterWarmUp = u at *
    refine ⟨_, carried, applied, changes, engine, ?_, fun p => ?_, fun hf => by simp at hf, fun _ hl => ?_, fun _ hl => ?_,
      ramps.trans slots, frame.wide.trans wide, frame.store.trans store, frame.feeds.trans feeds, frame.bEff.trans bEff, ?_⟩
    · rw [State.commit_out, frame.trips, out]
    · rw [State.latched_commit (by decide) (by decide)]
      exact shows p
    · obtain ⟨state, paEn, ms, timer, time⟩ := warm hl
      exact ⟨state, paEn, ms, timer, by rwa [frame.wide, wide] at time⟩
    · obtain ⟨state, paEn, -⟩ := tripped hl
      exact ⟨state, paEn⟩
    · rw [State.commit_out, frame.hold, out]

/-! ## SET_PLAN_PARAMS (R103, R113, R123) -/

/-- A timer that has not reached the quiet time in force, or that does not run: the quiet condition is formed, and no more. -/
theorem State.measureQuiet_formed {s : State}
    (h : ¬ (s.quietCondition = true ∧ s.wide.quietTime * 1000 ≤ s.out.quiet.getD 0)) : s.measureQuiet = s.formQuiet := by
  have quiet : s.formQuiet.out.quiet = if s.quietCondition then some (s.out.quiet.getD 0) else none := by rw [State.formQuiet_out]
  rw [State.measureQuiet, quiet]
  cases hc : s.quietCondition with
  | false => rfl
  | true => exact if_neg fun hl => h ⟨hc, hl⟩

/-- A timer that has reached the quiet time in force expires at this event (R123). -/
theorem State.measureQuiet_expired {s : State} (hc : s.quietCondition = true) (hl : s.wide.quietTime * 1000 ≤ s.out.quiet.getD 0) :
    s.measureQuiet = s.formQuiet.enterClosing .standby := by
  have quiet : s.formQuiet.out.quiet = some (s.out.quiet.getD 0) := by rw [State.formQuiet_out, if_pos hc]
  have onAir : s.formQuiet.out.state = .onAir := by
    rw [State.formQuiet_out]
    exact ((State.quietCondition_iff s).mp hc).1
  rw [State.measureQuiet, quiet]
  exact (if_pos hl).trans (if_pos onAir)

/-- New plan-wide fields, with the effective budget and the grants formed anew, before the quiet time is measured. -/
def State.paramsSet (s : State) (wide : PlanWide) : State := ({ s with wide := wide }).formBudget.govern

theorem State.paramsSet_slot (s : State) (wide : PlanWide) (k : SlotIx) :
    (s.paramsSet wide).slot k =
      { s.slot k with
        grant := grantOf (s.paramsSet wide).bEff s.demand (s.slot k)
        share := ((s.paramsSet wide).slot k).share } := by
  have bEff : (s.paramsSet wide).bEff = effectiveBudget wide.budget s.out.level := rfl
  rw [bEff, State.paramsSet, State.slot_govern]
  rfl

theorem State.budgetOfLevel_govern {s : State} (h : s.BudgetOfLevel) : s.govern.BudgetOfLevel := by
  unfold State.BudgetOfLevel at *
  rwa [State.govern_out, State.govern_bEff, State.govern_wide]

theorem State.BudgetOfLevel.air {s t : State} (h : s.BudgetOfLevel) (f : s.AirFrame t) : t.BudgetOfLevel := by
  unfold State.BudgetOfLevel at *
  rwa [f.level, f.bEff, f.wide]

theorem State.carryOut_params {s : State} {e : Entry} {b rs wc q ho : Nat} (h : e.change = .setPlanParams b rs wc q ho) :
    s.carryOut e = (s.applyParams b rs wc q ho).commit e := by
  rw [State.carryOut, h]

theorem State.applyParams_eq (s : State) (b rs wc q ho : Nat) :
    s.applyParams b rs wc q ho =
      (s.paramsSet { s.wide with budget := b, rampStep := rs, warmUpCode := wc, quietTime := q, holdOff := ho }).measureQuiet := rfl

/-- What new plan-wide fields leave, before the quiet time is measured. -/
structure State.ParamsSet (s : State) (wide : PlanWide) (x : State) : Prop where
  wide : x.wide = wide
  out : x.out = s.out
  holdEmpty : x.holdEmpty = s.holdEmpty
  store : x.store = s.store
  feeds : x.feeds = s.feeds
  latches : ∀ p, x.port p = s.port p
  budget : x.BudgetOfLevel
  slot : ∀ k, x.slot k = { s.slot k with grant := grantOf x.bEff s.demand (s.slot k), share := (x.slot k).share }

theorem State.paramsSet_set (s : State) (wide : PlanWide) : s.ParamsSet wide (s.paramsSet wide) where
  wide := rfl
  out := rfl
  holdEmpty := rfl
  store := rfl
  feeds := rfl
  latches _ := rfl
  budget := State.budgetOfLevel_govern (State.budgetOfLevel_formBudget _)
  slot := s.paramsSet_slot wide

/-- Settles O21: the clamped fields are written, and the budget and the quiet time take effect. -/
theorem setPlanParamsWritesTheClampedFields : Obligations.SetPlanParamsWritesTheClampedFields := by
  unfold Obligations.SetPlanParamsWritesTheClampedFields
  intro s e budget rampStep warmUpCode quietTime holdOff h hc
  have carried := (h.exec hc).trans (congrArg _ (State.carryOut_params (s := s.without e) (Entry.clamped_change hc)))
  have engineFrame := (s.without e).engineFrame_applyParams (clampNat 100 1000 budget) (clampNat 1 63 rampStep) (min 4 warmUpCode)
    (clampQuiet quietTime) (min 60 holdOff)
  obtain ⟨applied, changes, engine⟩ := h.applied engineFrame
  rw [State.applyParams_eq] at carried applied changes engine
  have set := (s.without e).paramsSet_set { (s.without e).wide with
    budget := clampNat 100 1000 budget, rampStep := clampNat 1 63 rampStep, warmUpCode := min 4 warmUpCode
    quietTime := clampQuiet quietTime, holdOff := min 60 holdOff }
  generalize (s.without e).paramsSet _ = x at *
  obtain ⟨wide, out, empty, store, feeds, ports, levels, slot⟩ := set
  simp only [State.without_wide, State.without_out, State.without_slot, State.without_demand, State.without_holdEmpty,
    State.without_store, State.without_feeds, State.port_without] at wide out empty store feeds ports slot
  have frame := x.airFrame_measureQuiet
  have shown : s.ShowsTransmitter x.measureQuiet :=
    x.showsTransmitter_measureQuiet.after (by rw [out]) fun p => by rw [ports]
  have budgets := levels.air frame
  unfold State.BudgetOfLevel at budgets
  rw [frame.level, out] at budgets
  obtain ⟨normal, foldback, trip⟩ := budgets
  have record : ∀ k, (x.slot k).record = (s.slot k).record := fun k => by rw [slot]
  have sel : ∀ k, (x.slot k).sel = (s.slot k).sel := fun k => by rw [slot]
  have ramp : ∀ k, (x.slot k).ramp = (s.slot k).ramp := fun k => by rw [slot]
  have quiet : x.quietCondition = true ↔ s.out.state = .onAir ∧ x.wide.quietTime ≠ 0 ∧ s.holdEmpty = true ∧
      ∀ k, (s.slot k).record.assigned = true → (s.slot k).record.enabled = true → (s.slot k).sel.source = .lost := by
    rw [State.quietCondition_iff, out, empty]
    simp only [record, sel]
  refine ⟨_, carried, applied, changes, engine, ?_, ?_, ?_, ?_, ?_, ?_, ?_, ?_, ?_, ?_, ?_, ?_, ?_, ?_, ?_, fun k => ?_, normal, foldback, trip,
    fun hq => ?early, fun hq hl ho he hk => ?late, shown.commit _, frame.store.trans store, frame.feeds.trans feeds,
    frame.hold.trans (by rw [out]), frame.trips.trans (by rw [out]), frame.level.trans (by rw [out])⟩
  case early =>
    rw [State.commit_wide, frame.wide] at hq
    have formed : x.measureQuiet = x.formQuiet := State.measureQuiet_formed fun ⟨hc, hl⟩ => by
      rw [out] at hl
      rcases hq with hq | hq
      · exact (quiet.mp hc).2.1 hq
      · omega
    have value : x.formQuiet.out = { s.out with quiet := if x.quietCondition then some (s.out.quiet.getD 0) else none } := by
      rw [State.formQuiet_out, out]
    rw [formed]
    refine ⟨fun k => ⟨?_, ?_⟩, ?_, ?_, ?_, ?_⟩
    · rw [State.slot_commit, State.slot_formQuiet, ramp]
    · rw [State.slot_commit, State.slot_formQuiet, State.commit_bEff, State.formQuiet_bEff, slot]
    · rw [State.commit_out, value]
    · rw [State.commit_out, value]
    · rw [State.commit_out, value]
      cases x.quietCondition <;> simp
    · rw [State.commit_out, State.commit_wide, State.formQuiet_wide, ← quiet, value]
      cases x.quietCondition <;> simp
  case late =>
    rw [State.commit_wide, frame.wide] at hq hl
    have expired : x.measureQuiet = x.formQuiet.enterClosing .standby :=
      State.measureQuiet_expired (quiet.mpr ⟨ho, hq, he, hk⟩) (by rwa [out])
    obtain ⟨closed, closing, none, -, turned, -⟩ := x.formQuiet.enterClosing_out .standby
    have target : Target.standby.state = TxState.standby := rfl
    rw [target] at closed
    simp only [State.slot_formQuiet, State.formQuiet_wide, ramp] at turned
    rw [State.commit_wide, frame.wide]
    rw [← expired] at closed closing none turned
    generalize x.measureQuiet = u at *
    exact ⟨none, turned, closed, closing⟩
  case refine_16 =>
    rw [State.slot_commit, frame.record, frame.words, frame.primary, frame.fallback, frame.sel, frame.retuning, slot]
    exact ⟨rfl, rfl, rfl, rfl, rfl, rfl⟩
  all_goals
    rw [State.commit_wide, frame.wide, wide]
  all_goals
    simp only [clampNat, clampQuiet]
  case refine_9 | refine_10 | refine_11 | refine_12 => split_ifs <;> omega
  all_goals omega

end Sys2Proof.Machine
end

section
/-! PROOF. The receivers, the unlock of a feed, the monitor interval and the hold-off (R57 to R65, R76 to R80). -/

namespace Sys2Proof.Machine

/-! ## One slot of a sweep -/

/-- The sweep reaches slot k once: what every other slot's turn leaves of slot k relates the start to the state before k's turn, and
the state after k's turn to the end. -/
theorem State.sweep_turn {g : State → SlotIx → State} {R : SlotIx → State → State → Prop} (refl : ∀ k u, R k u u)
    (trans : ∀ k {u v w}, R k u v → R k v w → R k u w) (other : ∀ u {j k}, j ≠ k → R j u (g u k)) (s : State) (k : SlotIx) :
    ∃ u, R k s u ∧ R k (g u k) (slotIndices.foldl g s) := by
  have apart : ∀ (l : List SlotIx) (u : State), k ∉ l → R k u (l.foldl g u) := by
    intro l
    induction l with
    | nil => exact fun u _ => refl k u
    | cons i l ih =>
      intro u h
      obtain ⟨hi, hl⟩ := List.ne_and_not_mem_of_not_mem_cons h
      exact trans k (other u hi) (ih _ hl)
  obtain ⟨before, after, split⟩ := List.append_of_mem (mem_slotIndices k)
  have once := slotIndices_nodup
  rw [split, List.nodup_append] at once
  obtain ⟨-, tail, apart'⟩ := once
  refine ⟨before.foldl g s, apart before s fun h => apart' k h k List.mem_cons_self rfl, ?_⟩
  rw [split, List.foldl_append, List.foldl_cons]
  exact apart after _ (List.nodup_cons.mp tail).1

/-- What the turns of the other slots leave of slot k: the plan, the engine, the store, and what k listens to. -/
structure State.Unheard (k : SlotIx) (s t : State) : Prop where
  frame : s.FeedFrame t
  slot : (s.slot k).SameListening (t.slot k)

theorem State.Unheard.refl (k : SlotIx) (s : State) : State.Unheard k s s := ⟨.refl s, .refl _⟩

theorem State.Unheard.trans (k : SlotIx) {s t u : State} (h : State.Unheard k s t) (g : State.Unheard k t u) : State.Unheard k s u :=
  ⟨h.frame.trans g.frame, h.slot.trans g.slot⟩

theorem State.unheard_putSlot (s : State) {j k : SlotIx} (h : j ≠ k) {x : Slot} (hr : x.record = (s.slot k).record)
    (hw : x.words = (s.slot k).words) (hm : x.retuning = (s.slot k).retuning) : State.Unheard j s (s.putSlot k x) :=
  ⟨s.feedFrame_putSlot k x hr hw hm, by rw [State.slot_putSlot_of_ne s h]; exact .refl _⟩

theorem State.unheard_notice (s : State) {j k : SlotIx} (h : j ≠ k) (forced : Bool) : State.Unheard j s (s.notice k forced) :=
  ⟨s.feedFrame_notice k forced, s.notice_of_ne h forced⟩

theorem State.unheard_unlockSlot (s : State) (f : Feed) {j k : SlotIx} (h : j ≠ k) : State.Unheard j s (s.unlockSlot f k) := by
  rw [State.unlockSlot_eq]
  split
  · exact (s.unheard_putSlot h (Slot.unlocked_record _ _) (Slot.unlocked_words _ _) (Slot.unlocked_retuning _ _)).trans j
      (State.unheard_notice _ h _)
  · exact .refl j s

theorem State.unheard_measure (s : State) {j k : SlotIx} (h : j ≠ k) (n : PathName) (d : Int) :
    State.Unheard j s (s.measure k n d) := by
  cases hv : s.measured k n d with
  | none => rw [State.measure_none hv]; exact .refl j s
  | some v =>
    have put : State.Unheard j s (s.putSlot k ((s.slot k).putPath n v)) := s.unheard_putSlot h (by simp) (by simp) (by simp)
    rw [State.measure_some hv]
    split
    · exact put
    · exact put.trans j (State.unheard_notice _ h _)

theorem State.unheard_measureSlot (s : State) (d : Delivered) {j k : SlotIx} (h : j ≠ k) : State.Unheard j s (s.measureSlot k d) := by
  unfold State.measureSlot
  split
  · exact (s.unheard_measure h _ _).trans j (State.unheard_measure _ h _ _)
  · exact (s.unheard_measure h _ _).trans j (State.unheard_measure _ h _ _)

theorem Slot.pathOn_congr {x y : Slot} (h : y.record = x.record) (n : PathName) (f : Feed) : y.pathOn n f = x.pathOn n f := by
  rw [Slot.pathOn, Slot.pathOn, h]

/-! ## The markers of a LOCKED receiver (R57) -/

theorem Receiver.goodMarker_of_locked {r : Receiver} (h : r.link = .locked) : r.goodMarker = { r with miss := 0 } := by
  simp only [Receiver.goodMarker, h]

theorem Receiver.badMarker_of_locked_of_lt {r : Receiver} (h : r.link = .locked) (hm : r.miss < 3) :
    r.badMarker = { r with miss := r.miss + 1 } := by
  simp only [Receiver.badMarker, h, if_pos hm]

theorem Receiver.badMarker_of_locked_of_le {r : Receiver} (h : r.link = .locked) (hm : 3 ≤ r.miss) : r.badMarker = ⟨.search, 0, 0⟩ := by
  simp only [Receiver.badMarker, h, if_neg hm.not_gt]

theorem State.soundMarker_of_locked {s : State} {f : Feed} (h : (s.receiver f).link = .locked) :
    s.soundMarker f = s.putReceiver f { s.receiver f with miss := 0 } := by
  rw [State.soundMarker, Receiver.goodMarker_of_locked h]
  exact State.moveReceiver_of_link_eq rfl

theorem State.lostMarker_of_locked_of_lt {s : State} {f : Feed} (h : (s.receiver f).link = .locked) (hm : (s.receiver f).miss < 3) :
    s.lostMarker f = s.putReceiver f { s.receiver f with miss := (s.receiver f).miss + 1 } := by
  have bad := Receiver.badMarker_of_locked_of_lt h hm
  rw [State.lostMarker_of_link_eq (by rw [bad]), bad]

/-- The receiver of feed f back in SEARCH, which both ports' FEED latches show, before any path is forced BAD. -/
def State.unlatched (s : State) (f : Feed) : State := (s.putReceiver f ⟨.search, 0, 0⟩).latchBoth .feed

theorem State.lostMarker_unlocks {s : State} {f : Feed} (h : (s.receiver f).link = .locked) (hm : 3 ≤ (s.receiver f).miss) :
    s.lostMarker f = slotIndices.foldl (fun u k => u.unlockSlot f k) (s.unlatched f) := by
  have bad := Receiver.badMarker_of_locked_of_le h hm
  have moved : (s.receiver f).badMarker.link ≠ (s.receiver f).link := by rw [bad, h]; decide
  unfold State.lostMarker
  simp only [if_neg moved]
  rw [State.moveReceiver_of_link_ne moved, bad]
  rfl

@[simp] theorem State.unlatched_slot (s : State) (f : Feed) (k : SlotIx) : (s.unlatched f).slot k = s.slot k :=
  State.slot_putReceiver s f _ k

@[simp] theorem State.unlatched_wide (s : State) (f : Feed) : (s.unlatched f).wide = s.wide := State.putReceiver_wide s f _

theorem State.unlatched_feed (s : State) (f : Feed) (p : Port) : ((s.unlatched f).port p).latched .feed = true := by
  rw [State.unlatched, State.port_latchBoth]
  simp only [PortState.latched, BitVec.getLsbD_or, Cause.bit_getLsbD]
  simp

/-- The turn of slot k in the sweep that an unlock makes. -/
theorem State.unlockSweep_turn (s : State) (f : Feed) (k : SlotIx) :
    ∃ u, State.Unheard k s u ∧ State.Unheard k (u.unlockSlot f k) (slotIndices.foldl (fun u k => u.unlockSlot f k) s) :=
  State.sweep_turn State.Unheard.refl State.Unheard.trans (fun u _ _ h => u.unheard_unlockSlot f h) s k

theorem State.unlockSweep_path (s : State) (f : Feed) (k : SlotIx) (n : PathName) :
    ((slotIndices.foldl (fun u k => u.unlockSlot f k) s).slot k).path n =
      if (s.slot k).pathOn n f = true then .rest else (s.slot k).path n := by
  obtain ⟨u, before, after⟩ := s.unlockSweep_turn f k
  rw [after.slot.path n, State.unlockSlot_path, before.slot.path n, Slot.pathOn_congr (before.frame.record k) n f]
  simp only [true_and]

/-- Settles O29: below the fourth miss the count moves alone, and the fourth is an unlock, whose sweep rests every path on the feed. -/
theorem lockedReceiverUnlocksAtTheFourthMiss : Obligations.LockedReceiverUnlocksAtTheFourthMiss := by
  unfold Obligations.LockedReceiverUnlocksAtTheFourthMiss
  intro s f h
  refine ⟨?good, fun hm => ⟨?count, rfl⟩, fun hm => ⟨rfl, ?unlock⟩⟩
  case good => rw [exec_goodMarker, State.soundMarker_of_locked h]
  case count => rw [exec_badMarker, State.lostMarker_of_locked_of_lt h hm]
  case unlock =>
    have plan := s.planFrame_lostMarker f
    rw [State.lostMarker_unlocks h hm] at plan
    have sweep := (s.unlatched f).feedFrame_unlockSweep f
    have rest := fun k n => (s.unlatched f).unlockSweep_path f k n
    simp only [State.unlatched_slot] at rest
    refine ⟨_, by rw [exec_badMarker, State.lostMarker_unlocks h hm], ?_, fun g hg => ?_, fun p => ?_, fun k n hk => ?_, fun k n hk => ?_,
      plan.samePlan, plan.generation, plan.engine, plan.store⟩
    · rw [sweep.receiver, State.unlatched, State.receiver_latchBoth, State.receiver_putReceiver_self]
    · rw [sweep.receiver, State.unlatched, State.receiver_latchBoth, State.receiver_putReceiver_of_ne s hg]
    · exact sweep.latched (s.unlatched_feed f p)
    · rw [rest, if_pos hk]; rfl
    · rw [rest, if_neg (by rw [hk]; decide)]

/-! ## The switch that an unlock forces (R76, R77) -/

/-- The path that an unlock leaves preferred, where the path in use is on the feed: the other one, if it is usable. -/
theorem Slot.unlocked_preferred_other {x : Slot} {f : Feed} {u o : PathName} (hu : x.pathOn u f = true) (ho : o ≠ u)
    (hr : (x.record.path o).isSome = true) (hq : (x.path o).quality = .good) (hf : x.pathOn o f = false) :
    (x.unlocked f).preferred = some o := by
  have lost : (x.unlocked f).path u = .rest := by rw [Slot.unlocked_path, if_pos hu]
  have kept : (x.unlocked f).path o = x.path o := by rw [Slot.unlocked_path, if_neg (by rw [hf]; decide)]
  rw [← Slot.prefers_iff]
  cases o with
  | primary => exact (congrArg PathState.quality kept).trans hq
  | fallback =>
    cases u with
    | fallback => exact absurd rfl ho
    | primary =>
      refine ⟨congrArg PathState.quality lost, ?_, (congrArg PathState.quality kept).trans hq⟩
      rw [Slot.unlocked_record]; exact hr

theorem Slot.unlocked_preferred_none {x : Slot} {f : Feed} {u o : PathName} (hu : x.pathOn u f = true) (ho : o ≠ u)
    (h : x.record.path o = none ∨ (x.path o).quality = .bad ∨ x.pathOn o f = true) : (x.unlocked f).preferred = none := by
  have lost : ((x.unlocked f).path u).quality = .bad := by rw [Slot.unlocked_path, if_pos hu]; rfl
  have other : x.record.path o = none ∨ ((x.unlocked f).path o).quality = .bad := by
    rw [Slot.unlocked_path]
    rcases h with h | h | h
    · exact .inl h
    · right; split
      · rfl
      · exact h
    · right; rw [if_pos h]; rfl
  rw [← Slot.prefers_iff]
  cases o with
  | primary =>
    cases u with
    | primary => exact absurd rfl ho
    | fallback =>
      rcases other with h | h
      · cases h
      · exact ⟨h, .inr lost⟩
  | fallback =>
    cases u with
    | fallback => exact absurd rfl ho
    | primary => exact ⟨lost, by rw [Slot.unlocked_record]; exact other⟩

theorem Slot.forcedOff_of_inUse {x : Slot} {f : Feed} {u : PathName} (h : x.sel.source = sourceOf u) : x.forcedOff f = x.pathOn u f := by
  rw [Slot.forcedOff, h, inUse_sourceOf]
  cases u <;> rfl

theorem Selector.decide_forced {v : Selector} {u n : PathName} (h : v.source = sourceOf u) (hn : n ≠ u) (ho : Nat) :
    v.decide (some n) true ho = v.take n ho := by
  simp only [Selector.decide, h, inUse_sourceOf, if_neg hn.symm, Bool.true_or, if_true]

theorem Selector.decide_none {v : Selector} {u : PathName} (h : v.source = sourceOf u) (forced : Bool) (ho : Nat) :
    v.decide none forced ho = v.lose := by
  simp only [Selector.decide, h, inUse_sourceOf]

/-- The unlock of a slot whose path in use is on the feed: the forced decision reaches its selection, and a change of source state shows
(R76, R83). -/
theorem State.unlockSlot_forced {s : State} {f : Feed} {k : SlotIx} {u : PathName} (h : (s.slot k).sel.source = sourceOf u)
    (hu : (s.slot k).pathOn u f = true) :
    let v := (s.slot k).sel.decide ((s.slot k).unlocked f).preferred true s.wide.holdOff
    (((s.slot k).unlocked f).select v).SameListening ((s.unlockSlot f k).slot k) ∧
      (v.source ≠ (s.slot k).sel.source → (s.unlockSlot f k).ShowsSource k) := by
  have on : ((s.slot k).pathOn .primary f || (s.slot k).pathOn .fallback f) = true := by
    cases u
    · rw [hu]; rfl
    · rw [hu]; exact Bool.or_true _
  have put : (s.putSlot k ((s.slot k).unlocked f)).slot k = (s.slot k).unlocked f := s.slot_putSlot_self k _
  have noticed := (s.putSlot k ((s.slot k).unlocked f)).notice_self k true
  have marks := (s.putSlot k ((s.slot k).unlocked f)).applySelection_marks k
    (v := ((s.slot k).unlocked f).sel.decide ((s.slot k).unlocked f).preferred true s.wide.holdOff)
  rw [State.unlockSlot_eq, if_pos on, Slot.forcedOff_of_inUse h, hu]
  rw [put, Slot.unlocked_sel] at noticed marks
  refine ⟨noticed, fun hv p => ?_⟩
  rw [State.notice, put, Slot.unlocked_sel]
  exact marks hv p

theorem State.ShowsSource.kept {s t : State} {k : SlotIx} (h : s.ShowsSource k) (f : s.FeedFrame t) : t.ShowsSource k :=
  fun p => ⟨f.latched (h p).1, f.changed (h p).2⟩

/-- Settles O30: the turn of slot k in the unlock's sweep takes the forced decision, and the other turns leave it. -/
theorem feedUnlockForcesTheSwitch : Obligations.FeedUnlockForcesTheSwitch := by
  unfold Obligations.FeedUnlockForcesTheSwitch
  intro s f k u o hl hm hs hu ho
  obtain ⟨w, before, after⟩ := (s.unlatched f).unlockSweep_turn f k
  have sel : (w.slot k).sel = (s.slot k).sel := before.slot.sel.trans (by rw [State.unlatched_slot])
  have record : (w.slot k).record = (s.slot k).record := (before.frame.record k).trans (by rw [State.unlatched_slot])
  have path : ∀ n, (w.slot k).path n = (s.slot k).path n := fun n => (before.slot.path n).trans (by rw [State.unlatched_slot])
  have wide : w.wide = s.wide := before.frame.wide.trans (s.unlatched_wide f)
  have on : ∀ n, (w.slot k).pathOn n f = (s.slot k).pathOn n f := fun n => Slot.pathOn_congr record n f
  have inUse : (w.slot k).sel.source = sourceOf u := by rw [sel, hs]
  have onFeed : (w.slot k).pathOn u f = true := by rw [on, hu]
  obtain ⟨taken, shown⟩ := State.unlockSlot_forced inUse onFeed
  have selAfter := after.slot.sel.trans taken.sel
  have started := holdOffStarted_startHoldOff s.wide.holdOff
  have other : ((s.slot k).record.path o).isSome = true → ((s.slot k).path o).quality = .good → (s.slot k).pathOn o f = false →
      ((w.slot k).unlocked f).preferred = some o := fun h1 h2 h3 =>
    Slot.unlocked_preferred_other onFeed ho (by rw [record, h1]) (by rw [path, h2]) (by rw [on, h3])
  have none' : ((s.slot k).record.path o = none ∨ ((s.slot k).path o).quality = .bad ∨ (s.slot k).pathOn o f = true) →
      ((w.slot k).unlocked f).preferred = none := fun h =>
    Slot.unlocked_preferred_none onFeed ho (by rw [record, path, on]; exact h)
  refine ⟨_, by rw [exec_missingMarker, exec_badMarker, State.lostMarker_unlocks hl hm], fun h1 h2 h3 => ?_, fun h => ?_, ?_⟩
  · rw [other h1 h2 h3, Selector.decide_forced inUse ho, wide] at selAfter
    rw [selAfter]
    exact ⟨rfl, rfl, rfl, started⟩
  · rw [none' h, Selector.decide_none inUse, sel] at selAfter
    rw [selAfter]
    exact ⟨rfl, rfl, rfl, rfl⟩
  · refine (shown ?_).kept after.frame
    by_cases usable : ((s.slot k).record.path o).isSome = true ∧ ((s.slot k).path o).quality = .good ∧ (s.slot k).pathOn o f = false
    · obtain ⟨h1, h2, h3⟩ := usable
      rw [other h1 h2 h3, Selector.decide_forced inUse ho, inUse]
      exact fun same => ho (sourceOf_inj same)
    · have none := none' (by
        cases hp : (s.slot k).record.path o <;> cases hq : ((s.slot k).path o).quality <;> cases hf : (s.slot k).pathOn o f <;>
          simp_all)
      rw [none, Selector.decide_none inUse, inUse]
      exact (sourceOf_ne_lost u).symm

/-! ## The monitor interval (R61 to R64) -/

/-- The turn of slot k in the sweep that a monitor interval makes. -/
theorem State.measureSweep_turn (s : State) (levels : Levels) (k : SlotIx) :
    ∃ u, State.Unheard k s u ∧
      State.Unheard k (u.measureSlot k levels[k.val]) (slotIndices.foldl (fun u k => u.measureSlot k levels[k.val]) s) :=
  State.sweep_turn State.Unheard.refl State.Unheard.trans (fun u _ k h => u.unheard_measureSlot levels[k.val] h) s k

/-- The level delivered for a path. -/
def deliveredOn (d : Delivered) : PathName → Int
  | .primary => d.primary
  | .fallback => d.fallback

theorem State.monitor_path (s : State) (levels : Levels) (k : SlotIx) (n : PathName) :
    ((s.monitor levels).slot k).path n = (s.measured k n (deliveredOn levels[k.val] n)).getD ((s.slot k).path n) := by
  obtain ⟨u, before, after⟩ := State.measureSweep_turn { s with monitorIn := 10 } levels k
  have path : (u.slot k).path n = (s.slot k).path n := before.slot.path n
  have same : ∀ d, u.measured k n d = s.measured k n d := State.measured_congr (before.frame.record k) path before.frame.feeds
  rw [State.monitor, after.slot.path n, State.measureSlot_path, if_pos rfl, path, same]
  cases n <;> rfl

theorem State.measured_of_assigned {s : State} {k : SlotIx} {n : PathName} {path : RxPath} (ha : (s.slot k).record.assigned = true)
    (hp : (s.slot k).record.path n = some path) (d : Int) :
    s.measured k n d = some (((s.slot k).path n).judge (s.slot k).record (s.measuredLevel path.feed d)) := by
  simp only [State.measured, hp, if_pos ha]

theorem State.measured_of_unassigned {s : State} {k : SlotIx} (h : (s.slot k).record.assigned = false) (n : PathName) (d : Int) :
    s.measured k n d = none := by
  unfold State.measured
  split
  · rfl
  · rw [if_neg (by rw [h]; decide)]

theorem State.measured_of_absent {s : State} {k : SlotIx} {n : PathName} (h : (s.slot k).record.path n = none) (d : Int) :
    s.measured k n d = none := by
  simp only [State.measured, h]

/-- Settles O31: each path of an assigned slot takes its judgement in its own slot's turn, and no other path state moves. -/
theorem monitorIntervalJudgesEveryPath : Obligations.MonitorIntervalJudgesEveryPath := by
  unfold Obligations.MonitorIntervalJudgesEveryPath
  intro s levels
  have plan := s.planFrame_monitor levels
  have sweep := State.feedFrame_measureSweep { s with monitorIn := 10 } levels
  have judged : ∀ k n path, (s.slot k).record.assigned = true → (s.slot k).record.path n = some path →
      ∃ level, ReadAs s path.feed (deliveredOn levels[k.val] n) level ∧
        Judged (s.slot k).record level ((s.slot k).path n) (((s.monitor levels).slot k).path n) := fun k n path ha hp => by
    refine ⟨_, s.readAs_measuredLevel path.feed _, ?_⟩
    rw [State.monitor_path, State.measured_of_assigned ha hp]
    exact PathState.judged _ _ _
  refine ⟨_, rfl, sweep.monitorIn, plan.samePlan, plan.generation, sweep.feeds, plan.engine, plan.store, plan.changes, fun k =>
    ⟨fun ha => ?_, fun ha => ⟨judged k .primary _ ha rfl, fun path hp => judged k .fallback path ha hp, fun hf => ?_⟩⟩⟩
  · have kept : ∀ n, ((s.monitor levels).slot k).path n = (s.slot k).path n := fun n => by
      rw [State.monitor_path, State.measured_of_unassigned ha]; rfl
    exact ⟨kept .primary, kept .fallback⟩
  · have kept : ((s.monitor levels).slot k).path .fallback = (s.slot k).path .fallback := by
      rw [State.monitor_path, State.measured_of_absent (n := .fallback) hf]; rfl
    exact kept

/-! ## The hold-off (R80) -/

theorem State.exec_holdOffExpiry {s : State} {k : SlotIx} (h : (s.slot k).sel.holdOff.isSome = true) :
    exec (.holdOffExpiry k) s = .next (s.expireHoldOff k) := congrArg _ (if_pos h)

theorem State.expireHoldOff_stops {s : State} {k : SlotIx} (h : (s.slot k).sel.switchPending = false) :
    s.expireHoldOff k = s.modSlot k fun x => { x with sel := { x.sel with holdOff := none } } := by
  have stopped : s.expireHoldOff k = s.putSlot k { s.slot k with sel := { (s.slot k).sel with holdOff := none } } := by
    unfold State.expireHoldOff
    simp only [h]
  exact stopped

theorem State.expireHoldOff_switches {s : State} {k : SlotIx} {n : PathName} (h : (s.slot k).sel.switchPending = true)
    (hn : (s.slot k).preferred = some n) :
    s.expireHoldOff k = s.applySelection k ({ (s.slot k).sel with holdOff := none }.take n s.wide.holdOff) := by
  simp only [State.expireHoldOff, h, hn]

/-- A switch from one path to another is neither a gain nor a loss of source (R83): it reaches the slot and the ports alone. -/
theorem State.applySelection_switch {s : State} {k : SlotIx} {v : Selector} (h : v.source ≠ (s.slot k).sel.source)
    (hv : v.source ≠ .lost) (hs : (s.slot k).sel.source ≠ .lost) :
    s.applySelection k v = (s.putSlot k ((s.slot k).select v)).latchSource k := by
  have some : (v.source == Source.lost) = false := beq_false_of_ne hv
  have some' : ((s.slot k).sel.source == Source.lost) = false := beq_false_of_ne hs
  simp only [State.applySelection, if_neg h, some, some']
  rfl

/-- Settles O33: with the mark clear the timer stops, and with the mark set the deferred switch is one new selection. -/
theorem holdOffExpiryTakesTheDeferredSwitch : Obligations.HoldOffExpiryTakesTheDeferredSwitch := by
  unfold Obligations.HoldOffExpiryTakesTheDeferredSwitch
  intro s k ms h
  have run := State.exec_holdOffExpiry (s := s) (k := k) (by rw [h]; rfl)
  refine ⟨fun hm => by rw [run, State.expireHoldOff_stops hm], fun n hm hn hs => ?_⟩
  have moved : (Selector.take { (s.slot k).sel with holdOff := none } n s.wide.holdOff).source ≠ (s.slot k).sel.source := hs.symm
  have plan := s.planFrame_expireHoldOff k
  rw [State.expireHoldOff_switches hm hn] at run plan
  have sel := (s.applySelection_self k (Selector.take { (s.slot k).sel with holdOff := none } n s.wide.holdOff)).sel
  have started := holdOffStarted_startHoldOff s.wide.holdOff
  refine ⟨_, run, by rw [sel]; rfl, by rw [sel]; rfl, by rw [sel]; rfl, fun h0 => by rw [sel]; exact started.1 h0,
    fun h0 => by rw [sel]; exact started.2 h0, s.applySelection_marks k moved, fun j hj => (s.applySelection_of_ne hj _).sel,
    plan.samePlan, plan.generation, fun hl => ?_⟩
  rw [State.applySelection_switch moved (sourceOf_ne_lost n) hl]
  refine ⟨rfl, fun j => ?_⟩
  rw [State.slot_latchSource, State.slot_putSlot]
  split
  next same => rw [same]; exact ⟨rfl, rfl⟩
  next => exact ⟨rfl, rfl⟩

end Sys2Proof.Machine
end

section
/-! PROOF. Step events, and what a report of OFF brings: the end of a drain and the end of CLOSING (R44, R47, R92, R98, R124). -/

namespace Sys2Proof.Machine

/-! ## The end of CLOSING (R124) -/

theorem State.closeIfOff_completes {s : State} {g : Target} (h : s.out.state = .closing g) (off : ∀ k, (s.slot k).ramp.state = .off) :
    s.closeIfOff = s.setTx g.state := by
  rw [State.closeIfOff, h]
  exact if_pos (s.allOff_iff.mpr off)

theorem State.closeIfOff_waits {s : State} (h : (∀ g, s.out.state ≠ .closing g) ∨ ∃ k, (s.slot k).ramp.state ≠ .off) :
    s.closeIfOff = s := by
  unfold State.closeIfOff
  split
  next g closing =>
    rcases h with h | ⟨k, hk⟩
    · exact absurd closing (h g)
    · exact if_neg fun off => hk (s.allOff_iff.mp off k)
  next => rfl

@[simp] theorem State.closeIfOff_slot (s : State) (k : SlotIx) : s.closeIfOff.slot k = s.slot k := by
  unfold State.closeIfOff
  split
  · split
    · exact State.slot_setTx _ _ k
    · rfl
  · rfl

/-! ## A record applied (R41, R46) -/

/-- What a change leaves that moves neither the plan, nor the generation, nor the queue, nor the store, nor a selection. -/
structure State.DrainFrame (s t : State) : Prop where
  wide : t.wide = s.wide
  generation : t.generation = s.generation
  changes : t.changes = s.changes
  store : t.store = s.store
  record : ∀ k, (t.slot k).record = (s.slot k).record
  sel : ∀ k, (t.slot k).sel = (s.slot k).sel
  outcomes : ∀ p, (t.port p).outcomes = (s.port p).outcomes

theorem State.DrainFrame.samePlan {s t : State} (h : s.DrainFrame t) : SamePlan s t := ⟨h.wide, h.record⟩

theorem State.PlanFrame.drainFrame {s t : State} (h : s.PlanFrame t) (sel : ∀ k, (t.slot k).sel = (s.slot k).sel) : s.DrainFrame t :=
  ⟨h.wide, h.generation, h.changes, h.store, h.record, sel, fun p => (h.queues p).outcomes⟩

theorem State.DrainFrame.trans {s t u : State} (h : s.DrainFrame t) (g : t.DrainFrame u) : s.DrainFrame u :=
  ⟨g.wide.trans h.wide, g.generation.trans h.generation, g.changes.trans h.changes, g.store.trans h.store,
    fun k => (g.record k).trans (h.record k), fun k => (g.sel k).trans (h.sel k), fun p => (g.outcomes p).trans (h.outcomes p)⟩

theorem State.AirFrame.drainFrame {s t : State} (h : s.AirFrame t) : s.DrainFrame t := h.planFrame.drainFrame h.sel

/-- The record of one slot written by a change that the engine then has done with: the application recorded, the slot started afresh,
the loss of its source shown. -/
structure State.Afresh (s t : State) (e : Entry) (k : SlotIx) (r : SlotRecord) : Prop where
  applied : Applied s t e
  engine : t.engine = .idle
  fresh : StartedAfresh r (t.slot k)
  shows : (s.slot k).sel.source ≠ .lost → t.ShowsSource k
  record : ∀ j, j ≠ k → (t.slot j).record = (s.slot j).record
  wide : t.wide = s.wide
  changes : t.changes = s.changes
  store : t.store = s.store

theorem StartedAfresh.of_start {x y : Slot} {r : SlotRecord} (hr : y.record = r ∧ y.words = wordsOf r ∧ y.retuning = false)
    (h : (x.start r).SameListening y) : StartedAfresh r y := by
  obtain ⟨record, words, retuning⟩ := hr
  exact ⟨record, words, h.primary, h.fallback, h.sel.trans (Slot.startedAfresh_start x r).2.2.2.2.1, retuning⟩

theorem State.applyRecord_shows {s : State} {k : SlotIx} (h : (s.slot k).sel.source ≠ .lost) (r : SlotRecord) :
    (s.applyRecord k r).ShowsSource k := by
  have had : (s.slot k).hasSource = true := bne_iff_ne.mpr h
  intro p
  unfold State.applyRecord
  simp only [had, if_true, State.port_formQuiet, State.port_reformSlot, State.port_latchSource]
  refine ⟨?_, ?_⟩
  · simp only [PortState.latched, BitVec.getLsbD_or, Cause.bit_getLsbD]
    simp
  · have own : (slotBit k).getLsbD k.val = true := by clear h had; revert k; decide
    simp only [BitVec.getLsbD_or, own, Bool.or_true]

theorem State.changed_commit (s : State) (e : Entry) (p : Port) : ((s.commit e).port p).changed = (s.port p).changed := by
  by_cases h : p = e.origin
  · rw [h, State.port_commit_self]
  · obtain rfl : p = otherPort e.origin := by
      revert h; cases p <;> cases e.origin <;> simp [otherPort]
    rw [State.port_commit_other]

theorem State.ShowsSource.commit {s : State} {k : SlotIx} (h : s.ShowsSource k) (e : Entry) : (s.commit e).ShowsSource k := fun p => by
  rw [State.latched_commit (by decide) (by decide), State.changed_commit]
  exact h p

theorem State.applyRecord_fresh (s : State) (k : SlotIx) (r : SlotRecord) : StartedAfresh r ((s.applyRecord k r).slot k) :=
  .of_start (s.applyRecord_record k r) (s.applyRecord_listening k r)

/-- A record applied in a state whose engine is IDLE is an application (R41). -/
theorem State.applyRecord_afresh {s : State} (h : s.engine = .idle) (e : Entry) (k : SlotIx) (r : SlotRecord) :
    s.Afresh ((s.applyRecord k r).commit e) e k r where
  applied := (s.engineFrame_applyRecord k r).applied e
  engine := by rw [State.commit_engine, (s.recordFrame_applyRecord k r).engine, h]
  fresh := by rw [State.slot_commit]; exact s.applyRecord_fresh k r
  shows hs := (State.applyRecord_shows hs r).commit e
  record j hj := by rw [State.slot_commit, (s.recordFrame_applyRecord k r).slot j hj]
  wide := by rw [State.commit_wide, (s.recordFrame_applyRecord k r).wide]
  changes := by rw [State.commit_changes, (s.recordFrame_applyRecord k r).changes]
  store := by rw [State.commit_store, (s.recordFrame_applyRecord k r).store]

namespace State.Afresh

theorem air {s t u : State} {e : Entry} {k : SlotIx} {r : SlotRecord} (h : s.Afresh t e k r) (f : t.AirFrame u) : s.Afresh u e k r where
  applied := h.applied.air f
  engine := f.engine.trans h.engine
  fresh := by
    obtain ⟨record, words, primary, fallback, sel, retuning⟩ := h.fresh
    exact ⟨(f.record k).trans record, (f.words k).trans words, (f.primary k).trans primary, (f.fallback k).trans fallback,
      (f.sel k).trans sel, (f.retuning k).trans retuning⟩
  shows hs := (h.shows hs).kept f.feedFrame
  record j hj := (f.record j).trans (h.record j hj)
  wide := f.wide.trans h.wide
  changes := f.changes.trans h.changes
  store := f.store.trans h.store

theorem after {s t u : State} {e : Entry} {k : SlotIx} {r : SlotRecord} (h : t.Afresh u e k r) (f : s.DrainFrame t) : s.Afresh u e k r where
  applied := h.applied.after f.generation f.outcomes
  engine := h.engine
  fresh := h.fresh
  shows hs := h.shows (by rw [f.sel]; exact hs)
  record j hj := (h.record j hj).trans (f.record j)
  wide := h.wide.trans f.wide
  changes := h.changes.trans f.changes
  store := h.store.trans f.store

end State.Afresh

/-! ## The end of a drain (R44, R47) -/

theorem State.recordApplied_afresh (s : State) (e : Entry) (k : SlotIx) (r : SlotRecord) : s.Afresh (s.recordApplied e k r) e k r :=
  (State.applyRecord_afresh (s := { s with engine := .idle }) rfl e k r).after ⟨rfl, rfl, rfl, rfl, fun _ => rfl, fun _ => rfl, fun _ => rfl⟩

theorem State.afterOff_assign {s : State} {e : Entry} {k : SlotIx} {r : SlotRecord} (he : s.engine = .draining e)
    (hc : e.change = .assignSlot k r) (hk : (s.slot k).ramp.state = .off) : s.Afresh s.afterOff e k { r with assigned := true } := by
  rw [State.afterOff, State.endDrain_assign he hc, if_neg (by simp [Slot.transmitting, hk])]
  exact (s.recordApplied_afresh e k _).air (State.airFrame_closeIfOff _)

theorem State.afterOff_release {s : State} {e : Entry} {k : SlotIx} (he : s.engine = .draining e) (hc : e.change = .releaseSlot k)
    (hk : (s.slot k).ramp.state = .off) : s.Afresh s.afterOff e k .rest := by
  rw [State.afterOff, State.endDrain_release he hc, if_neg (by simp [Slot.transmitting, hk])]
  exact (s.recordApplied_afresh e k _).air (State.airFrame_closeIfOff _)

theorem State.afterOff_of_transmitting {s : State} {e : Entry} {k : SlotIx} {r : SlotRecord} (he : s.engine = .draining e)
    (hc : e.change = .assignSlot k r ∨ e.change = .releaseSlot k) (hk : (s.slot k).ramp.state ≠ .off) : s.afterOff = s.closeIfOff := by
  have on : (s.slot k).transmitting = true := bne_iff_ne.mpr hk
  rcases hc with hc | hc
  · rw [State.afterOff, State.endDrain_assign he hc, if_pos on]
  · rw [State.afterOff, State.endDrain_release he hc, if_pos on]

/-- A LOAD_PRESET drained: LOADING, and the store asked for the read. -/
structure State.Asking (s t : State) (e : Entry) (n : PresetIx) : Prop where
  engine : t.engine = .loading e
  read : AskedForRead s t n
  wide : t.wide = s.wide
  generation : t.generation = s.generation
  changes : t.changes = s.changes
  record : ∀ k, (t.slot k).record = (s.slot k).record
  retuning : ∀ k, (t.slot k).retuning = (s.slot k).retuning
  ramp : ∀ k, (t.slot k).ramp = (s.slot k).ramp
  outcomes : ∀ p, (t.port p).outcomes = (s.port p).outcomes
  preset : ∀ m, t.store.preset m = s.store.preset m

theorem State.afterOff_load {s : State} {e : Entry} {n : PresetIx} (he : s.engine = .draining e) (hc : e.change = .loadPreset n)
    (off : ∀ k, (s.slot k).retuning = true → (s.slot k).ramp.state = .off) : s.Asking s.afterOff e n := by
  have frame := State.airFrame_closeIfOff { s with engine := .loading e, store := s.store.askRead n }
  have ramps := State.closeIfOff_slot { s with engine := .loading e, store := s.store.askRead n }
  rw [State.afterOff, State.endDrain_load he hc, if_pos (s.markedOff_iff.mpr off)]
  exact ⟨frame.engine, s.askedForRead n _ frame.store, frame.wide, frame.generation, frame.changes, frame.record, frame.retuning,
    fun k => congrArg Slot.ramp (ramps k), frame.outcomes, fun m => by rw [frame.store]; exact Store.preset_askRead _ n m⟩

theorem State.afterOff_load_waits {s : State} {e : Entry} {n : PresetIx} (he : s.engine = .draining e) (hc : e.change = .loadPreset n)
    (on : ∃ k, (s.slot k).retuning = true ∧ (s.slot k).ramp.state ≠ .off) : s.afterOff = s.closeIfOff := by
  obtain ⟨k, marked, hk⟩ := on
  rw [State.afterOff, State.endDrain_load he hc, if_neg fun off => hk (s.markedOff_iff.mp off k marked)]

/-! ## Step events (R92) -/

/-- The step of slot k moved, and its share with it, before what a report of OFF brings. -/
def State.stepTaken (s : State) (k : SlotIx) : State :=
  s.modSlot k fun x => { x with ramp := x.ramp.advance s.wide.rampStep }.formShare

theorem State.exec_stepEvent {s : State} {k : SlotIx} {ms : Nat} (h : (s.slot k).ramp.timer = some ms) :
    exec (.stepEvent k) s = .next (s.rampStepEvent k) := congrArg _ (if_pos (by rw [h]; rfl))

theorem State.slot_stepTaken (s : State) (k : SlotIx) :
    (s.stepTaken k).slot k = { s.slot k with ramp := (s.slot k).ramp.advance s.wide.rampStep }.formShare :=
  s.slot_modSlot_self k _

theorem State.slot_stepTaken_of_ne (s : State) {j k : SlotIx} (h : j ≠ k) : (s.stepTaken k).slot j = s.slot j :=
  s.slot_modSlot_of_ne h _

theorem State.rampStepEvent_eq (s : State) (k : SlotIx) :
    s.rampStepEvent k =
      if (s.slot k).transmitting && !((s.stepTaken k).slot k).transmitting then (s.stepTaken k).govern.afterOff else s.stepTaken k := rfl

theorem State.rampStepEvent_on {s : State} {k : SlotIx} (h : ((s.slot k).ramp.advance s.wide.rampStep).state ≠ .off) :
    s.rampStepEvent k = s.stepTaken k := by
  have on : ((s.stepTaken k).slot k).transmitting = true := by
    rw [State.slot_stepTaken]
    exact bne_iff_ne.mpr h
  rw [State.rampStepEvent_eq, on, Bool.not_true, Bool.and_false]
  rfl

theorem State.rampStepEvent_off {s : State} {k : SlotIx} (hk : (s.slot k).ramp.state ≠ .off)
    (h : (s.slot k).ramp.advance s.wide.rampStep = .rest) : s.rampStepEvent k = (s.stepTaken k).govern.afterOff := by
  have on : (s.slot k).transmitting = true := bne_iff_ne.mpr hk
  have off : ((s.stepTaken k).slot k).transmitting = false := by
    rw [State.slot_stepTaken, h]
    rfl
  rw [State.rampStepEvent_eq, on, off]
  rfl

theorem State.planFrame_stepTaken (s : State) (k : SlotIx) : s.PlanFrame (s.stepTaken k) := s.planFrame_putSlot k rfl rfl rfl

/-- A slot that leaves the air by its last step, the grants formed, before what its report of OFF brings. -/
structure State.SteppedOff (s : State) (k : SlotIx) (w : State) : Prop where
  plan : s.PlanFrame w
  drain : s.DrainFrame w
  out : w.out = s.out
  ports : w.ports = s.ports
  ramp : (w.slot k).ramp = .rest
  grant : (w.slot k).grant = 0
  share : (w.slot k).share = 0
  others : ∀ j, j ≠ k → (w.slot j).ramp = (s.slot j).ramp

theorem State.steppedOff_govern {s : State} {k : SlotIx} (h : (s.slot k).ramp.advance s.wide.rampStep = .rest) :
    s.SteppedOff k (s.stepTaken k).govern := by
  have ramp : ((s.stepTaken k).slot k).ramp = .rest := by rw [State.slot_stepTaken]; exact h
  have plan := (s.planFrame_stepTaken k).trans (State.airFrame_govern _).planFrame
  have sel : ∀ j, ((s.stepTaken k).govern.slot j).sel = (s.slot j).sel := fun j => by
    rw [State.govern_slot_sel]
    by_cases hj : j = k
    · rw [hj, State.slot_stepTaken]; rfl
    · rw [State.slot_stepTaken_of_ne s hj]
  refine ⟨plan, plan.drainFrame sel, by simp [State.stepTaken], by simp [State.stepTaken], by rw [State.govern_slot_ramp, ramp], ?_, ?_,
    fun j hj => by rw [State.govern_slot_ramp, State.slot_stepTaken_of_ne s hj]⟩
  · rw [State.slot_govern]
    exact grantOf_off (by rw [ramp]; rfl)
  · rw [State.slot_govern, ramp]
    exact Nat.zero_div 16

theorem Ramp.advance_rises {r : Ramp} (h : r.state = .rampUp) (hs : r.step < 15) (rs : Nat) : r.advance rs = ⟨.rampUp, r.step + 1, some rs⟩ := by
  simp only [Ramp.advance, h, if_pos hs]

theorem Ramp.advance_full {r : Ramp} (h : r.state = .rampUp) (hs : 15 ≤ r.step) (rs : Nat) : r.advance rs = ⟨.on, 16, none⟩ := by
  simp only [Ramp.advance, h, if_neg hs.not_gt]

theorem Ramp.advance_down {r : Ramp} (h : r.state = .rampDown) (hs : 1 < r.step) (rs : Nat) :
    r.advance rs = ⟨.rampDown, r.step - 1, some rs⟩ := by
  simp only [Ramp.advance, h, if_pos hs]

theorem Ramp.advance_last {r : Ramp} (h : r.state = .rampDown) (hs : r.step ≤ 1) (rs : Nat) : r.advance rs = .rest := by
  simp only [Ramp.advance, h, if_neg hs.not_gt]

theorem State.stepTaken_eq {s : State} {k : SlotIx} {r : Ramp} (h : (s.slot k).ramp.advance s.wide.rampStep = r) :
    s.stepTaken k = s.putSlot k { s.slot k with ramp := r, share := shareOf (s.slot k).grant r.step } := by
  subst h
  rfl

/-- Settles O35: the three moves that stay on the air are the step alone, and the fourth also completes a CLOSING that waited for it. -/
theorem stepEventMovesTheRampByOne : Obligations.StepEventMovesTheRampByOne := by
  unfold Obligations.StepEventMovesTheRampByOne
  intro s k ms h
  rw [State.exec_stepEvent h]
  refine ⟨fun hr hs => ?up, fun hr hs => ?full, fun hr hs => ?down, fun hr hs he => ?off⟩
  case up =>
    have move := Ramp.advance_rises hr hs s.wide.rampStep
    rw [State.rampStepEvent_on (by rw [move]; nofun), State.stepTaken_eq move]
    rfl
  case full =>
    have move := Ramp.advance_full hr hs s.wide.rampStep
    have share : shareOf (s.slot k).grant 16 = (s.slot k).grant := Nat.mul_div_cancel _ (by decide)
    rw [State.rampStepEvent_on (by rw [move]; nofun), State.stepTaken_eq move, share]
    rfl
  case down =>
    have move := Ramp.advance_down hr hs s.wide.rampStep
    rw [State.rampStepEvent_on (by rw [move]; nofun), State.stepTaken_eq move]
    rfl
  case off =>
    have move := Ramp.advance_last hr hs s.wide.rampStep
    rw [State.rampStepEvent_off (by rw [hr]; decide) move]
    have stepped := State.steppedOff_govern move
    generalize (s.stepTaken k).govern = w at stepped
    rw [State.afterOff_of_idle fun e => by rw [stepped.plan.engine]; exact he e]
    have frame := w.airFrame_closeIfOff
    have plan := stepped.plan.trans frame.planFrame
    refine ⟨_, rfl, by rw [State.closeIfOff_slot]; exact stepped.ramp, by rw [State.closeIfOff_slot]; exact stepped.grant,
      by rw [State.closeIfOff_slot]; exact stepped.share, fun j hj => by rw [State.closeIfOff_slot]; exact stepped.others j hj,
      plan.samePlan, plan.generation, plan.engine, plan.store, fun g hg off => ?_, fun waits => ?_⟩
    · have allOff : ∀ j, (w.slot j).ramp.state = .off := fun j => by
        by_cases hj : j = k
        · rw [hj, stepped.ramp]; rfl
        · rw [stepped.others j hj]; exact off j hj
      rw [State.closeIfOff_completes (by rw [stepped.out, hg]) allOff]
      refine ⟨by rw [State.setTx_out], ?_, w.latched_setTx _⟩
      rw [State.setTx_out]
      cases g <;> rfl
    · rw [State.closeIfOff_waits]
      · exact ⟨stepped.out, stepped.ports⟩
      · rcases waits with notClosing | ⟨j, hj, on⟩
        · exact .inl fun g => by rw [stepped.out]; exact notClosing g
        · exact .inr ⟨j, by rw [stepped.others j hj]; exact on⟩

/-- Settles O25: the last step of the drained slot, or of the last marked one, is the report of OFF that ends the drain; that of any
other slot is not. -/
theorem lastStepEndsTheDrain : Obligations.LastStepEndsTheDrain := by
  unfold Obligations.LastStepEndsTheDrain
  intro s e k ms he h hr hs
  have move := Ramp.advance_last hr hs s.wide.rampStep
  rw [State.exec_stepEvent h, State.rampStepEvent_off (by rw [hr]; decide) move]
  have stepped := State.steppedOff_govern move
  generalize (s.stepTaken k).govern = w at stepped
  have engine : w.engine = .draining e := by rw [stepped.plan.engine, he]
  have off : (w.slot k).ramp.state = .off := by rw [stepped.ramp]; rfl
  refine ⟨fun r hc => ?assign, fun hc => ?release, fun n hc => ?load, fun i r hi hc hon => ?other⟩
  case assign =>
    have ended := (State.afterOff_assign engine hc off).after stepped.drain
    exact ⟨_, rfl, ended.applied, ended.engine, ended.fresh, ended.shows, ended.record, ended.wide, ended.changes⟩
  case release =>
    have ended := (State.afterOff_release engine hc off).after stepped.drain
    exact ⟨_, rfl, ended.applied, ended.engine, ended.fresh, ended.shows, ended.record, ended.wide, ended.changes⟩
  case load =>
    by_cases last : ∀ j, j ≠ k → (s.slot j).retuning = true → (s.slot j).ramp.state = .off
    case pos =>
      have allOff : ∀ j, (w.slot j).retuning = true → (w.slot j).ramp.state = .off := fun j hj => by
        by_cases hjk : j = k
        · rw [hjk]; exact off
        · rw [stepped.others j hjk]
          exact last j hjk (by rwa [stepped.plan.retuning] at hj)
      have asking := State.afterOff_load engine hc allOff
      have read := asking.read
      unfold AskedForRead at read
      rw [stepped.drain.store] at read
      exact ⟨_, rfl, ⟨asking.wide.trans stepped.drain.wide, fun j => (asking.record j).trans (stepped.drain.record j)⟩,
        asking.generation.trans stepped.drain.generation, asking.changes.trans stepped.drain.changes,
        fun p => (asking.outcomes p).trans (stepped.drain.outcomes p), fun j => (asking.retuning j).trans (stepped.plan.retuning j),
        fun _ => ⟨asking.engine, read⟩, fun ⟨j, hj, marked, on⟩ => absurd (last j hj marked) on⟩
    case neg =>
      push Not at last
      obtain ⟨j, hj, marked, on⟩ := last
      rw [State.afterOff_load_waits engine hc ⟨j, by rw [stepped.plan.retuning, marked], by rw [stepped.others j hj]; exact on⟩]
      have plan := stepped.plan.trans w.airFrame_closeIfOff.planFrame
      exact ⟨_, rfl, plan.samePlan, plan.generation, plan.changes, fun p => (plan.queues p).outcomes, plan.retuning,
        fun last => absurd (last j hj marked) on, fun _ => ⟨plan.engine, plan.store⟩⟩
  case other =>
    rw [State.afterOff_of_transmitting engine hc (by rw [stepped.others i hi]; exact hon)]
    have plan := stepped.plan.trans w.airFrame_closeIfOff.planFrame
    exact ⟨_, rfl, plan.engine, plan.samePlan, plan.generation, plan.store, plan.changes, fun p => (plan.queues p).outcomes⟩

end Sys2Proof.Machine
end

section
/-! PROOF. Protection: a level taken, a trip, and the level leaving TRIP (R103, R104, R117, R129, R130). -/

namespace Sys2Proof.Machine

/-! ## A level taken (R103, R104) -/

theorem State.exec_level_same {s : State} {hi lo : Bool} (h : protectionOf hi lo = s.out.level) :
    exec (.protectionLevelChange hi lo) s = .next (s.setLines hi lo) :=
  congrArg _ (if_pos (by rw [h, beq_self_eq_true, Bool.or_true]))

theorem State.exec_level {s : State} {hi lo : Bool} (hr : s.resetHeld = false) (h : protectionOf hi lo ≠ s.out.level) :
    exec (.protectionLevelChange hi lo) s = .next ((s.setLines hi lo).changeLevel (protectionOf hi lo)) :=
  congrArg _ (if_neg (by rw [hr, beq_false_of_ne h]; decide))

@[simp] theorem State.levelTaken_bEff (s : State) (l : Protection) : (s.levelTaken l).bEff = effectiveBudget s.wide.budget l := by
  rw [State.levelTaken, State.govern_bEff]
  rfl

theorem State.levelTaken_slot (s : State) (l : Protection) (k : SlotIx) :
    (s.levelTaken l).slot k =
      { s.slot k with
        grant := grantOf (effectiveBudget s.wide.budget l) s.demand (s.slot k)
        share := shareOf (grantOf (effectiveBudget s.wide.budget l) s.demand (s.slot k)) (s.slot k).ramp.step } := by
  rw [State.levelTaken, State.slot_govern]
  rfl

theorem State.planFrame_levelTaken (s : State) (l : Protection) : s.PlanFrame (s.levelTaken l) := (s.still_levelTaken l).plan

@[simp] theorem State.levelTaken_rest (s : State) (l : Protection) :
    (s.levelTaken l).feeds = s.feeds ∧ (s.levelTaken l).protHi = s.protHi ∧ (s.levelTaken l).protLo = s.protLo ∧
      (s.levelTaken l).now = s.now := by
  simp only [State.levelTaken, State.govern_feeds, State.govern_protHi, State.govern_protLo, State.govern_now]
  exact ⟨rfl, rfl, rfl, rfl⟩

theorem State.levelTaken_protection (s : State) (l : Protection) (p : Port) :
    ((s.levelTaken l).port p).latched .protection = true := by
  rw [State.levelTaken, State.port_govern]
  refine (congrArg (PortState.latched · .protection) (State.port_latchBoth _ p .protection)).trans ?_
  exact (PortState.latched_or _ _ _).trans (by simp)

/-- Settles O42: lines of the same level are the whole event, and another level that neither trips nor ends a trip is taken alone. -/
theorem protectionChangeReformsTheBudget : Obligations.ProtectionChangeReformsTheBudget := by
  unfold Obligations.ProtectionChangeReformsTheBudget
  intro s hi lo level hr hl
  have decoded : level = protectionOf hi lo := hl
  refine ⟨fun same => State.exec_level_same (decoded ▸ same), fun moved noTrip noLeave => ?_⟩
  have taken : (s.setLines hi lo).changeLevel level = (s.setLines hi lo).levelTaken level := by
    rw [State.changeLevel_eq]
    by_cases ht : level = .trip
    · rw [if_pos ht]
      exact if_neg fun on => noTrip ⟨ht, on⟩
    · rw [if_neg ht]
      exact if_neg noLeave
  have run := State.exec_level hr (decoded ▸ moved)
  rw [← decoded, taken] at run
  have plan := (s.planFrame_setLines hi lo).trans (State.planFrame_levelTaken _ level)
  obtain ⟨feeds, protHi, protLo, -⟩ := (s.setLines hi lo).levelTaken_rest level
  have bEff := (s.setLines hi lo).levelTaken_bEff level
  have slot := (s.setLines hi lo).levelTaken_slot level
  have out := (s.setLines hi lo).levelTaken_out level
  have shows := (s.setLines hi lo).levelTaken_protection level
  generalize (s.setLines hi lo).levelTaken level = t at *
  refine ⟨t, run, protHi, protLo, out, fun h => by rw [bEff, h]; rfl, fun h => by rw [bEff, h]; rfl, fun h => by rw [bEff, h]; rfl, shows,
    fun k => ?_, plan.wide, plan.generation, plan.engine, plan.store, feeds⟩
  rw [bEff, slot]
  exact ⟨rfl, rfl⟩

/-! ## A trip (R129) -/

theorem State.tripForced_out (s : State) :
    s.tripForced.out =
      { s.out with
        trips := s.out.trips ++ [s.now]
        state := if 3 ≤ (s.out.trips ++ [s.now]).length then .lockout else .tripped
        paEn := false, warmUp := none, quiet := none } := by
  rw [State.tripForced, State.forceOff_out]
  by_cases third : 3 ≤ (s.out.trips ++ [s.now]).length
  · rw [if_pos third, State.setTx_out]
    rfl
  · rw [if_neg third, State.setTx_out]
    rfl

theorem State.tripForced_ramp (s : State) (k : SlotIx) :
    (s.tripForced.slot k).ramp = if (s.slot k).transmitting then .rest else (s.slot k).ramp := by
  rw [State.tripForced, State.forceOff_slot_ramp, State.slot_setTx]
  rfl

theorem State.tripForced_off (s : State) (k : SlotIx) : (s.tripForced.slot k).ramp.state = .off := State.forceOff_off _ k

theorem State.govern_grant_off {s : State} {k : SlotIx} (h : (s.slot k).ramp.state = .off) : (s.govern.slot k).grant = 0 := by
  rw [State.govern_slot_grant]
  exact grantOf_off h

theorem State.tripForced_grant (s : State) (k : SlotIx) : (s.tripForced.slot k).grant = 0 := by
  have off := s.tripForced_off k
  rw [State.tripForced, State.forceOff, State.govern_slot_ramp] at off
  rw [State.tripForced, State.forceOff]
  exact State.govern_grant_off off

theorem State.tripForced_bEff (s : State) : s.tripForced.bEff = s.bEff := by
  rw [State.tripForced, State.forceOff_bEff, State.setTx_bEff]

theorem State.tripForced_txState (s : State) (p : Port) : (s.tripForced.port p).latched .txState = true := by
  rw [State.tripForced, State.port_forceOff, State.latched_setTx]

theorem State.tripForced_latched (s : State) {p : Port} {c : Cause} (h : (s.port p).latched c = true) :
    (s.tripForced.port p).latched c = true := by
  have port : ∀ o, ({ s with out := o } : State).port p = s.port p := fun _ => rfl
  rw [State.tripForced, State.port_forceOff, State.port_setTx, port]
  exact (PortState.latched_or _ _ _).trans (by rw [h]; rfl)

theorem State.tripForced_sel (s : State) (k : SlotIx) : (s.tripForced.slot k).sel = (s.slot k).sel := by
  rw [State.tripForced, State.forceOff_slot_sel, State.slot_setTx]
  rfl

/-! ### The end of a drain where every slot is OFF and the transmitter off the air -/

/-- A record written and the loss of a source shown, before D and Q are formed anew. -/
def State.recordStarted (s : State) (k : SlotIx) (r : SlotRecord) : State :=
  if (s.slot k).hasSource then (s.modSlot k fun x => x.start r).latchSource k else s.modSlot k fun x => x.start r

theorem State.applyRecord_eq (s : State) (k : SlotIx) (r : SlotRecord) : s.applyRecord k r = ((s.recordStarted k r).reformSlot k).formQuiet :=
  rfl

@[simp] theorem State.recordStarted_out (s : State) (k : SlotIx) (r : SlotRecord) : (s.recordStarted k r).out = s.out := by
  unfold State.recordStarted
  split
  · exact State.latchSource_out _ k
  · rfl

theorem State.applyRecord_quiet (s : State) (k : SlotIx) (r : SlotRecord) :
    ((s.applyRecord k r).out.quiet.isSome = true ↔ (s.applyRecord k r).Quiet) ∧
      ∀ ms, (s.applyRecord k r).out.quiet = some ms → ms = s.out.quiet.getD 0 := by
  have formed := ((s.recordStarted k r).reformSlot k).formQuiet_forms
  rw [State.reformSlot_out, State.recordStarted_out] at formed
  rw [State.applyRecord_eq]
  exact formed

theorem State.applyRecord_grant_off {s : State} {j k : SlotIx} {r : SlotRecord} (h : ((s.applyRecord k r).slot j).ramp.state = .off) :
    ((s.applyRecord k r).slot j).grant = 0 := by
  rw [State.applyRecord_eq, State.slot_formQuiet, State.reformSlot, State.govern_slot_ramp] at h
  rw [State.applyRecord_eq, State.slot_formQuiet, State.reformSlot]
  exact State.govern_grant_off h

/-- Nothing on the air: neither ON_AIR nor CLOSING, no quiet timer, every slot OFF with grant 0. -/
structure State.Silent (s : State) : Prop where
  state : s.out.state = .tripped ∨ s.out.state = .lockout
  quiet : s.out.quiet = none
  off : ∀ k, (s.slot k).ramp.state = .off
  grant : ∀ k, (s.slot k).grant = 0

/-- What the end of a drain leaves of a silent state. -/
structure State.StaysSilent (s t : State) : Prop where
  out : t.out = s.out
  bEff : t.bEff = s.bEff
  wide : t.wide = s.wide
  changes : t.changes = s.changes
  ramp : ∀ k, (t.slot k).ramp = (s.slot k).ramp
  grant : ∀ k, (t.slot k).grant = (s.slot k).grant
  latched : ∀ p c, (s.port p).latched c = true → (t.port p).latched c = true

theorem State.StaysSilent.refl (s : State) : s.StaysSilent s := ⟨rfl, rfl, rfl, rfl, fun _ => rfl, fun _ => rfl, fun _ _ h => h⟩

theorem State.latched_commit_of_latched {s : State} {p : Port} {c : Cause} (h : (s.port p).latched c = true) (e : Entry) :
    ((s.commit e).port p).latched c = true := by
  by_cases hp : p = e.origin
  · subst hp
    rw [State.port_commit_self]
    exact (PortState.latched_or _ _ _).trans (by rw [h]; rfl)
  · obtain rfl : p = otherPort e.origin := by
      revert hp; cases p <;> cases e.origin <;> simp [otherPort]
    rw [State.port_commit_other]
    exact (PortState.latched_or _ _ _).trans (by rw [h]; rfl)

theorem State.latched_applyRecord {s : State} {p : Port} {c : Cause} (h : (s.port p).latched c = true) (k : SlotIx) (r : SlotRecord) :
    ((s.applyRecord k r).port p).latched c = true := by
  rw [State.applyRecord_eq, State.port_formQuiet, State.port_reformSlot, State.recordStarted]
  split
  · rw [State.port_latchSource]
    exact (PortState.latched_or (s.port p) .source c).trans (by rw [h]; rfl)
  · exact h

theorem State.Silent.staysSilent_applyRecord {s : State} (h : s.Silent) (k : SlotIx) (r : SlotRecord) :
    s.StaysSilent (s.applyRecord k r) := by
  have frame := s.recordFrame_applyRecord k r
  have notOnAir : s.out.state ≠ .onAir := by rcases h.state with e | e <;> rw [e] <;> decide
  have state : (s.applyRecord k r).out.state = s.out.state := by rw [frame.out]
  have closed : s.airOpen = false := Bool.eq_false_iff.mpr fun open' => notOnAir (s.airOpen_iff.mp open').1
  have ramp : ∀ j, ((s.applyRecord k r).slot j).ramp = (s.slot j).ramp := fun j => by
    by_cases hj : j = k
    · rw [hj, State.applyRecord_ramp, closed, Bool.false_and]
      exact (Ramp.react_false _ _).2.2.2.2 (h.off k)
    · rw [frame.slot j hj]
  have quiet : (s.applyRecord k r).out.quiet = none := Option.not_isSome_iff_eq_none.mp fun runs =>
    notOnAir (state ▸ ((s.applyRecord_quiet k r).1.mp runs).1)
  refine ⟨?_, frame.bEff, frame.wide, frame.changes, ramp, fun j => ?_, fun p c hc => State.latched_applyRecord hc k r⟩
  · rw [frame.out, quiet, ← h.quiet]
  · rw [h.grant, State.applyRecord_grant_off (by rw [ramp]; exact h.off j)]

theorem State.StaysSilent.of_engine {s t : State} {e : Engine} (h : State.StaysSilent { s with engine := e } t) : s.StaysSilent t :=
  ⟨h.out, h.bEff, h.wide, h.changes, h.ramp, h.grant, h.latched⟩

theorem State.StaysSilent.commit {s t : State} (h : s.StaysSilent t) (e : Entry) : s.StaysSilent (t.commit e) where
  out := by rw [State.commit_out, h.out]
  bEff := by rw [State.commit_bEff, h.bEff]
  wide := by rw [State.commit_wide, h.wide]
  changes := by rw [State.commit_changes, h.changes]
  ramp k := by rw [State.slot_commit, h.ramp]
  grant k := by rw [State.slot_commit, h.grant]
  latched p c hc := State.latched_commit_of_latched (h.latched p c hc) e

theorem State.Silent.staysSilent_afterOff {s : State} (h : s.Silent) : s.StaysSilent s.afterOff := by
  have waits : ∀ t : State, t.out = s.out → t.closeIfOff = t := fun t out =>
    State.closeIfOff_waits (.inl fun g => by rw [out]; rcases h.state with e | e <;> rw [e] <;> nofun)
  unfold State.afterOff
  rcases s.endDrain_cases with e | ⟨x, k, r, -, -, -, e⟩ | ⟨x, n, -, -, -, e⟩ <;> rw [e]
  · rw [waits s rfl]
    exact .refl s
  · have idle : State.Silent { s with engine := .idle } := ⟨h.state, h.quiet, h.off, h.grant⟩
    have applied : s.StaysSilent (s.recordApplied x k r) := (idle.staysSilent_applyRecord k r).of_engine.commit x
    rw [waits _ applied.out]
    exact applied
  · rw [waits { s with engine := .loading x, store := s.store.askRead n } rfl]
    exact ⟨rfl, rfl, rfl, rfl, fun _ => rfl, fun _ => rfl, fun _ _ hc => hc⟩

theorem State.silent_tripForced (s : State) : s.tripForced.Silent where
  state := by
    rw [State.tripForced_out]
    split_ifs
    · exact .inr rfl
    · exact .inl rfl
  quiet := by rw [State.tripForced_out]
  off := s.tripForced_off
  grant := s.tripForced_grant

/-- The trip of a state whose lines have just given TRIP, before the drains end. -/
def State.tripTaken (s : State) (lo : Bool) : State := ((s.setLines true lo).levelTaken .trip).tripForced

theorem State.exec_trip {s : State} (hr : s.resetHeld = false) (hl : s.out.level ≠ .trip) (ha : s.out.state.amplifierOn = true)
    (lo : Bool) : exec (.protectionLevelChange true lo) s = .next (s.tripTaken lo).afterOff := by
  have on : (s.setLines true lo).out.state.amplifierOn = true := ha
  have tripped : (s.setLines true lo).changeLevel .trip = (s.tripTaken lo).afterOff := by
    rw [State.changeLevel_eq, if_pos rfl, if_pos on, State.trip_eq, State.tripTaken]
  have moved : protectionOf true lo ≠ s.out.level := fun same => hl same.symm
  exact (State.exec_level hr moved).trans (congrArg _ tripped)

theorem State.tripTaken_out (s : State) (lo : Bool) :
    (s.tripTaken lo).out =
      { s.out with
        level := .trip, trips := s.out.trips ++ [s.now]
        state := if 3 ≤ (s.out.trips ++ [s.now]).length then .lockout else .tripped
        paEn := false, warmUp := none, quiet := none } := by
  have now : ((s.setLines true lo).levelTaken .trip).now = s.now := (State.levelTaken_rest _ _).2.2.2
  rw [State.tripTaken, State.tripForced_out, State.levelTaken_out, now]
  rfl

theorem State.tripTaken_plan (s : State) (lo : Bool) : s.PlanFrame (s.tripTaken lo) :=
  ((s.planFrame_setLines true lo).trans (State.planFrame_levelTaken _ .trip)).trans (State.planFrame_tripForced _)

theorem State.tripTaken_drain (s : State) (lo : Bool) : s.DrainFrame (s.tripTaken lo) :=
  (s.tripTaken_plan lo).drainFrame fun k => by
    rw [State.tripTaken, State.tripForced_sel, State.levelTaken_slot]
    rfl

theorem State.tripTaken_ramp (s : State) (lo : Bool) (k : SlotIx) :
    (s.slot k).ramp.state ≠ .off → ((s.tripTaken lo).slot k).ramp = .rest := by
  intro h
  rw [State.tripTaken, State.tripForced_ramp, State.levelTaken_slot]
  exact if_pos (bne_iff_ne.mpr h)

theorem State.tripTaken_bEff (s : State) (lo : Bool) : (s.tripTaken lo).bEff = 0 := by
  rw [State.tripTaken, State.tripForced_bEff, State.levelTaken_bEff]
  rfl

theorem State.tripTaken_latched (s : State) (lo : Bool) (p : Port) :
    ((s.tripTaken lo).port p).latched .protection = true ∧ ((s.tripTaken lo).port p).latched .txState = true :=
  ⟨State.tripForced_latched _ (State.levelTaken_protection _ _ p), State.tripForced_txState _ p⟩

/-- Settles O43: the trip forces every slot OFF, and the report of OFF then ends whatever drain there was, in a state where nothing else
can move. -/
theorem tripStopsTheTransmitter : Obligations.TripStopsTheTransmitter := by
  unfold Obligations.TripStopsTheTransmitter
  intro s lo hr hl hs
  have amplifier : s.out.state.amplifierOn = true := by rcases hs with e | e | ⟨g, e⟩ <;> rw [e] <;> rfl
  have run := State.exec_trip hr hl amplifier lo
  have silent : (s.tripTaken lo).Silent := State.silent_tripForced _
  have plan := s.tripTaken_plan lo
  have drain := s.tripTaken_drain lo
  have out := s.tripTaken_out lo
  have ramp := s.tripTaken_ramp lo
  have bEff := s.tripTaken_bEff lo
  have latched := s.tripTaken_latched lo
  generalize s.tripTaken lo = w at *
  have stays := silent.staysSilent_afterOff
  have outAfter := stays.out.trans out
  refine ⟨_, run, by rw [outAfter], stays.bEff.trans bEff, by rw [outAfter], fun h => ?_, fun h => ?_, by rw [outAfter], by rw [outAfter],
    by rw [outAfter], fun k => ⟨by rw [stays.ramp]; exact silent.off k, by rw [stays.grant]; exact silent.grant k,
      fun h => by rw [stays.ramp]; exact ramp k h⟩, fun p => ⟨stays.latched p _ (latched p).1, stays.latched p _ (latched p).2⟩,
    by rw [outAfter], stays.changes.trans plan.changes, stays.wide.trans plan.wide, fun e k r he hc => ?assign, fun e k he hc => ?release,
    fun e n he hc => ?load, fun he => ?other⟩
  · rw [outAfter]
    exact if_pos (by rw [List.length_append, List.length_singleton]; omega)
  · rw [outAfter]
    exact if_neg (by rw [List.length_append, List.length_singleton]; omega)
  case assign =>
    have ended := (State.afterOff_assign (plan.engine.trans he) hc (silent.off k)).after drain
    exact ⟨ended.applied, ended.engine, ended.fresh, ended.shows, ended.record, ended.store⟩
  case release =>
    have ended := (State.afterOff_release (plan.engine.trans he) hc (silent.off k)).after drain
    exact ⟨ended.applied, ended.engine, ended.fresh, ended.shows, ended.record, ended.store⟩
  case load =>
    have asking := State.afterOff_load (plan.engine.trans he) hc fun k _ => silent.off k
    have read := asking.read
    unfold AskedForRead at read
    rw [drain.store] at read
    exact ⟨asking.engine, read, ⟨asking.wide.trans drain.wide, fun j => (asking.record j).trans (drain.record j)⟩,
      asking.generation.trans drain.generation, fun p => (asking.outcomes p).trans (drain.outcomes p)⟩
  case other =>
    rw [State.afterOff_of_idle fun e => by rw [plan.engine]; exact he e]
    have kept := plan.trans w.airFrame_closeIfOff.planFrame
    exact ⟨kept.engine, kept.store, kept.samePlan, kept.generation, fun p => (kept.queues p).outcomes⟩

/-! ## The level leaves TRIP (R130) -/

theorem State.exec_leave {s : State} {lo : Bool} (hr : s.resetHeld = false) (hl : s.out.level = .trip) (hs : s.out.state = .tripped) :
    exec (.protectionLevelChange false lo) s = .next ((s.setLines false lo).levelTaken (protectionOf false lo)).leaveTripped := by
  have notTrip : protectionOf false lo ≠ .trip := by cases lo <;> decide
  have left : (s.setLines false lo).changeLevel (protectionOf false lo) =
      ((s.setLines false lo).levelTaken (protectionOf false lo)).leaveTripped := by
    rw [State.changeLevel_eq, if_neg notTrip]
    exact if_pos ⟨hl, hs⟩
  exact (State.exec_level hr (by rw [hl]; exact notTrip)).trans (congrArg _ left)

theorem State.airFrame_leaveTripped (s : State) : s.AirFrame s.leaveTripped := by
  unfold State.leaveTripped
  split
  · exact s.airFrame_enterWarmUp
  · exact s.airFrame_setTx _

theorem State.leaveTripped_txState (s : State) (p : Port) : (s.leaveTripped.port p).latched .txState = true := by
  unfold State.leaveTripped
  split
  · exact s.enterWarmUp_shows p
  · exact s.latched_setTx _ p

/-- Settles O44: TRIPPED gives way to WARMUP or OFF_AIR by tx_enable, and a departure is the tail of the history. -/
theorem leavingTripRestartsTheTransmitter : Obligations.LeavingTripRestartsTheTransmitter := by
  unfold Obligations.LeavingTripRestartsTheTransmitter
  refine ⟨fun s lo hr hl hs => ?_, fun s => rfl⟩
  have run := State.exec_leave (lo := lo) hr hl hs
  have plan := (s.planFrame_setLines false lo).trans (State.planFrame_levelTaken _ (protectionOf false lo))
  have out := (s.setLines false lo).levelTaken_out (protectionOf false lo)
  have bEff := (s.setLines false lo).levelTaken_bEff (protectionOf false lo)
  have shows := (s.setLines false lo).levelTaken_protection (protectionOf false lo)
  generalize (s.setLines false lo).levelTaken (protectionOf false lo) = u at *
  have frame := u.airFrame_leaveTripped
  have left := plan.trans frame.planFrame
  have notTrip : u.out.level ≠ .trip := by rw [out]; cases lo <;> nofun
  refine ⟨_, run, by rw [frame.trips, out]; rfl, fun h => ?_, fun h => ?_, fun h => ?_, fun h => ?_,
    fun p => ⟨frame.latched (shows p), u.leaveTripped_txState p⟩, left.samePlan, left.generation⟩
  · rw [frame.level, frame.bEff, out, bEff, h]
    exact ⟨rfl, rfl⟩
  · rw [frame.level, frame.bEff, out, bEff, h]
    exact ⟨rfl, rfl⟩
  · rw [State.leaveTripped, if_pos (by rw [plan.wide, h]), ← plan.wide]
    have entered := u.enterWarmUp_entered.1 notTrip
    rwa [(State.airFrame_enterWarmUp u).wide] at entered
  · rw [State.leaveTripped, if_neg (by rw [plan.wide, h]; decide), State.setTx_out]
    exact ⟨rfl, rfl, rfl⟩

end Sys2Proof.Machine
end

section
/-! PROOF. The takings of ASSIGN_SLOT, RELEASE_SLOT and LOAD_PRESET: at once on a slot that is OFF, by a drain otherwise (R41, R43, R47). -/

namespace Sys2Proof.Machine

/-! ## A record applied at once (R41, R46) -/

/-- What the application of a record to slot k leaves beyond `Afresh`: the ports' SOURCE marks where no source was lost, the quiet
timer, the ramp by the on-demand condition, and every other slot but for grant and share. -/
structure State.AppliedAtOnce (s t : State) (k : SlotIx) (r : SlotRecord) : Prop where
  unshown : (s.slot k).sel.source = .lost →
    ∀ p, (t.port p).latched .source = (s.port p).latched .source ∧ (t.port p).changed = (s.port p).changed
  quiet : t.out.quiet.isSome = true ↔ t.Quiet
  elapsed : ∀ ms, t.out.quiet = some ms → ms = s.out.quiet.getD 0
  ramp : (t.slot k).ramp = (s.slot k).ramp.react (s.airOpen && ((s.slot k).start r).wanted) s.wide.rampStep
  others : ∀ j, j ≠ k → t.slot j = { s.slot j with grant := (t.slot j).grant, share := (t.slot j).share }
  feeds : t.feeds = s.feeds
  bEff : t.bEff = s.bEff
  state : t.out.state = s.out.state
  paEn : t.out.paEn = s.out.paEn

theorem State.port_applyRecord_of_lost {s : State} {k : SlotIx} (h : (s.slot k).sel.source = .lost) (r : SlotRecord) (p : Port) :
    (s.applyRecord k r).port p = s.port p := by
  have none : (s.slot k).hasSource = false := bne_eq_false_iff_eq.mpr h
  rw [State.applyRecord_eq, State.port_formQuiet, State.port_reformSlot, State.recordStarted, none]
  rfl

theorem State.applyRecord_atOnce (s : State) (e : Entry) (k : SlotIx) (r : SlotRecord) :
    s.AppliedAtOnce ((s.applyRecord k r).commit e) k r where
  unshown h p := by
    rw [State.latched_commit (by decide) (by decide), State.changed_commit, State.port_applyRecord_of_lost h]
    exact ⟨rfl, rfl⟩
  quiet := by
    rw [State.commit_out, State.quiet_commit]
    exact (s.applyRecord_quiet k r).1
  elapsed ms := by
    rw [State.commit_out]
    exact (s.applyRecord_quiet k r).2 ms
  ramp := by rw [State.slot_commit, State.applyRecord_ramp]
  others j hj := by
    rw [State.slot_commit]
    exact (s.recordFrame_applyRecord k r).slot j hj
  feeds := by rw [State.commit_feeds, (s.recordFrame_applyRecord k r).feeds]
  bEff := by rw [State.commit_bEff, (s.recordFrame_applyRecord k r).bEff]
  state := by rw [State.commit_out, (s.recordFrame_applyRecord k r).out]
  paEn := by rw [State.commit_out, (s.recordFrame_applyRecord k r).out]

/-- A taking counts from the state before it: the entry alone has left the queue. -/
theorem Applied.taken {s t : State} {e : Entry} (h : Applied (s.without e) t e.clamped) : Applied s t e :=
  Applied.of_clamped (h.after rfl fun _ => rfl)

theorem State.Passes.idle {s : State} {e : Entry} (h : s.Passes e) : (s.without e).engine = .idle := h.1

/-- The taking of a change of one slot's record on a slot that is OFF. -/
theorem State.Passes.atOnce {s : State} {e : Entry} {k : SlotIx} {r : SlotRecord} (h : s.Passes e) :
    (s.without e).Afresh (((s.without e).applyRecord k r).commit e.clamped) e.clamped k r ∧
      (s.without e).AppliedAtOnce (((s.without e).applyRecord k r).commit e.clamped) k r :=
  ⟨State.applyRecord_afresh h.idle _ k r, (s.without e).applyRecord_atOnce _ k r⟩

theorem State.exec_assign_off {s : State} {e : Entry} {k : SlotIx} {r : SlotRecord} (h : s.Passes e) (hc : e.change = .assignSlot k r)
    (off : (s.slot k).ramp.state = .off) :
    exec .assignSlot s = .next (((s.without e).applyRecord k { clampRecord r with assigned := true }).commit e.clamped) := by
  have notOn : ((s.without e).slot k).transmitting = false := bne_eq_false_iff_eq.mpr off
  refine (h.exec hc).trans (congrArg _ ?_)
  rw [State.carryOut, Entry.clamped_change hc]
  exact State.takeSlotChange_off notOn _ _

theorem State.exec_release_off {s : State} {e : Entry} {k : SlotIx} (h : s.Passes e) (hc : e.change = .releaseSlot k)
    (off : (s.slot k).ramp.state = .off) :
    exec .releaseSlot s = .next (((s.without e).applyRecord k .rest).commit e.clamped) := by
  have notOn : ((s.without e).slot k).transmitting = false := bne_eq_false_iff_eq.mpr off
  refine (h.exec hc).trans (congrArg _ ?_)
  rw [State.carryOut, Entry.clamped_change hc]
  exact State.takeSlotChange_off notOn _ _

/-- A slot started afresh as an assigned one wants the air exactly as an enabled PILOT slot (R88). -/
theorem Slot.wanted_start (x : Slot) (r : SlotRecord) :
    (x.start { r with assigned := true }).wanted = true ↔ r.enabled = true ∧ r.lossAction = .pilot := by
  simp [Slot.wanted, Slot.start, Slot.hasSource, Selector.rest]

theorem Slot.wanted_start_rest (x : Slot) : (x.start .rest).wanted = false := rfl

theorem wordsOf_assigned (r : SlotRecord) :
    wordsOf { clampRecord r with assigned := true } =
      ⟨tuningWord r.output, tuningWord (-r.primary.offset),
        (match r.fallback with
        | some f => tuningWord (-f.offset)
        | none => 0)⟩ := rfl

theorem Ramp.react_false_off {r : Ramp} (h : r.state = .off) (rs : Nat) : r.react false rs = r := (Ramp.react_false rs r).2.2.2.2 h

theorem Ramp.react_true_off {r : Ramp} (h : r.state = .off) (rs : Nat) : r.react true rs = ⟨.rampUp, 0, some rs⟩ :=
  (Ramp.react_true rs r).1 h

/-- Settles O23: both changes are one application of a record; an assigned record may bring an enabled PILOT slot up, and the rest record
cannot. -/
theorem slotChangeOnAnOffSlotAppliesAtOnce : Obligations.SlotChangeOnAnOffSlotAppliesAtOnce := by
  unfold Obligations.SlotChangeOnAnOffSlotAppliesAtOnce
  intro s e k h off
  refine ⟨fun r hc => ?assign, fun hc => ?release⟩
  case assign =>
    have run := State.exec_assign_off h hc off
    obtain ⟨afresh, atOnce⟩ := h.atOnce (k := k) (r := { clampRecord r with assigned := true })
    generalize ((s.without e).applyRecord k { clampRecord r with assigned := true }).commit e.clamped = t at *
    have ramp := atOnce.ramp
    have wants := ((s.without e).slot k).wanted_start (clampRecord r)
    have opened : (s.without e).airOpen = true ↔ s.out.state = .onAir ∧ s.holdEmpty = true := State.airOpen_iff _
    refine ⟨t, run, afresh.applied.taken, afresh.changes, afresh.engine, ⟨_, clampedRecord_clampRecord r, afresh.fresh⟩, ?_,
      afresh.shows, atOnce.unshown, atOnce.quiet, atOnce.elapsed, fun ha he hen hp => ?_, fun closed => ?_, atOnce.others, afresh.wide,
      afresh.store, atOnce.feeds, atOnce.bEff, atOnce.state, atOnce.paEn⟩
    · obtain ⟨-, words, -⟩ := afresh.fresh
      exact words.trans (wordsOf_assigned r)
    · rw [opened.mpr ⟨ha, he⟩, wants.mpr ⟨hen, hp⟩] at ramp
      exact ramp.trans (Ramp.react_true_off off _)
    · have unwanted : ((s.without e).airOpen && (((s.without e).slot k).start { clampRecord r with assigned := true }).wanted) = false := by
        rw [Bool.and_eq_false_iff, ← Bool.not_eq_true, ← Bool.not_eq_true, opened, wants]
        by_cases ho : s.out.state = .onAir ∧ s.holdEmpty = true
        · exact .inr fun hw => closed ⟨ho.1, ho.2, hw.1, hw.2⟩
        · exact .inl ho
      rw [unwanted] at ramp
      exact ramp.trans (Ramp.react_false_off off _)
  case release =>
    have run := State.exec_release_off h hc off
    obtain ⟨afresh, atOnce⟩ := h.atOnce (k := k) (r := .rest)
    generalize ((s.without e).applyRecord k .rest).commit e.clamped = t at *
    have ramp := atOnce.ramp
    rw [Slot.wanted_start_rest, Bool.and_false] at ramp
    obtain ⟨record, words, primary, fallback, sel, retuning⟩ := afresh.fresh
    exact ⟨t, run, afresh.applied.taken, afresh.changes, afresh.engine, record, afresh.shows, atOnce.unshown, atOnce.quiet,
      atOnce.elapsed, words.trans wordsOf_rest, primary, fallback, sel, retuning, ramp.trans (Ramp.react_false_off off _), atOnce.others,
      afresh.wide, afresh.store, atOnce.feeds, atOnce.bEff, atOnce.state, atOnce.paEn⟩

/-! ## The drain of one slot (R43) -/

/-- The drain of slot k begun: the engine holds the change, the slot is marked and turned down, and all else stands. -/
structure State.DrainBegun (s : State) (e : Entry) (k : SlotIx) (w : State) : Prop where
  engine : w.engine = .draining e
  frame : s.DrainFrame w
  ports : w.ports = s.ports
  out : w.out = s.out
  feeds : w.feeds = s.feeds
  bEff : w.bEff = s.bEff
  marked : (w.slot k).retuning = true
  turned : TurnedDown s.wide.rampStep (s.slot k).ramp (w.slot k).ramp
  words : ∀ j, (w.slot j).words = (s.slot j).words
  primary : ∀ j, (w.slot j).primary = (s.slot j).primary
  fallback : ∀ j, (w.slot j).fallback = (s.slot j).fallback
  others : ∀ j, j ≠ k → (w.slot j).ramp = (s.slot j).ramp ∧ (w.slot j).retuning = (s.slot j).retuning

/-- The mark of a slot set as its drain begins, the slot not yet turned down. -/
def State.slotMarked (s : State) (e : Entry) (k : SlotIx) : State :=
  ({ s with engine := .draining e }).modSlot k fun x => { x with retuning := true }

theorem State.slotMarked_self (s : State) (e : Entry) (k : SlotIx) : (s.slotMarked e k).slot k = { s.slot k with retuning := true } :=
  State.slot_modSlot_self _ k _

theorem State.slotMarked_of_ne (s : State) (e : Entry) {j k : SlotIx} (h : j ≠ k) : (s.slotMarked e k).slot j = s.slot j :=
  State.slot_modSlot_of_ne _ h _

theorem State.drainFrame_slotMarked (s : State) (e : Entry) (k : SlotIx) : s.DrainFrame (s.slotMarked e k) := by
  refine ⟨rfl, rfl, rfl, rfl, fun j => ?_, fun j => ?_, fun _ => rfl⟩ <;> by_cases hj : j = k
  · rw [hj, State.slotMarked_self]
  · rw [State.slotMarked_of_ne s e hj]
  · rw [hj, State.slotMarked_self]
  · rw [State.slotMarked_of_ne s e hj]

theorem State.drainBegun_begun (s : State) (e : Entry) (k : SlotIx) : s.DrainBegun e k (s.drainBegun e k) := by
  have begun : s.drainBegun e k = (s.slotMarked e k).reformSlot k := rfl
  have air := (s.slotMarked e k).airFrame_reformSlot k
  have down : (s.slotMarked e k).onDemand k = false := State.onDemand_of_shut (.inl (by rw [State.slotMarked_self]))
  rw [begun]
  refine ⟨air.engine.trans rfl, (s.drainFrame_slotMarked e k).trans air.drainFrame, (State.reformSlot_ports _ k).trans rfl,
    (State.reformSlot_out _ k).trans rfl, air.feeds.trans rfl, air.bEff.trans rfl, ?_, ?_, fun j => ?_, fun j => ?_, fun j => ?_,
    fun j hj => ?_⟩
  · rw [air.retuning, State.slotMarked_self]
  · rw [State.reformSlot_slot_ramp_self, down, State.slotMarked_self]
    exact Ramp.react_false _ _
  · rw [air.words]
    by_cases hj : j = k
    · rw [hj, State.slotMarked_self]
    · rw [State.slotMarked_of_ne s e hj]
  · rw [air.primary]
    by_cases hj : j = k
    · rw [hj, State.slotMarked_self]
    · rw [State.slotMarked_of_ne s e hj]
  · rw [air.fallback]
    by_cases hj : j = k
    · rw [hj, State.slotMarked_self]
    · rw [State.slotMarked_of_ne s e hj]
  · rw [State.reformSlot_slot_ramp_of_ne _ hj, air.retuning, State.slotMarked_of_ne s e hj]
    exact ⟨rfl, rfl⟩

theorem State.exec_slotChange_on {s : State} {e : Entry} {k : SlotIx} {r : SlotRecord} (h : s.Passes e)
    (hc : e.change = .assignSlot k r ∨ e.change = .releaseSlot k) (on : (s.slot k).ramp.state ≠ .off) :
    exec (takingOf e.change.kind) s = .next ((s.without e).drainBegun e.clamped k).afterOff := by
  have transmits : ((s.without e).slot k).transmitting = true := bne_iff_ne.mpr on
  refine (h.exec rfl).trans (congrArg _ ?_)
  rcases hc with hc | hc
  · rw [State.carryOut, Entry.clamped_change hc]
    exact State.takeSlotChange_transmitting transmits _ _
  · rw [State.carryOut, Entry.clamped_change hc]
    exact State.takeSlotChange_transmitting transmits _ _

/-- A turn down leaves a ramp on the air, but at step 0 of RAMP_UP (R91). -/
theorem TurnedDown.on {rs : Nat} {r r' : Ramp} (h : TurnedDown rs r r')
    (hr : r.state = .on ∨ r.state = .rampDown ∨ (r.state = .rampUp ∧ r.step ≠ 0)) : r'.state ≠ .off := by
  obtain ⟨fromOn, fromUp, -, fromDown, -⟩ := h
  rcases hr with hr | hr | ⟨hr, hs⟩
  · rw [fromOn hr]; nofun
  · rw [fromDown hr, hr]; decide
  · rw [fromUp hr hs]; nofun

theorem TurnedDown.off {rs : Nat} {r r' : Ramp} (h : TurnedDown rs r r') (hr : r.state = .off ∨ (r.state = .rampUp ∧ r.step = 0)) :
    r'.state = .off := by
  obtain ⟨-, -, fromZero, -, fromOff⟩ := h
  rcases hr with hr | ⟨hr, hs⟩
  · rw [fromOff hr, hr]
  · rw [fromZero hr hs]

/-- Settles O24: the drain begins at the taking, and ends there only where the slot is turned down from step 0. -/
theorem slotChangeOnATransmittingSlotDrains : Obligations.SlotChangeOnATransmittingSlotDrains := by
  unfold Obligations.SlotChangeOnATransmittingSlotDrains
  intro s e k r h hc
  have begun := (s.without e).drainBegun_begun e.clamped k
  refine ⟨fun hr => ?drains, fun hr hs => ?ends⟩
  case drains =>
    have on : (s.slot k).ramp.state ≠ .off := by rcases hr with hr | hr | ⟨hr, -⟩ <;> rw [hr] <;> decide
    have run := State.exec_slotChange_on h hc on
    generalize (s.without e).drainBegun e.clamped k = w at *
    have still : (w.slot k).ramp.state ≠ .off := begun.turned.on hr
    have held : e.clamped.change = .assignSlot k (clampRecord r) ∨ e.clamped.change = .releaseSlot k :=
      hc.imp Entry.clamped_change Entry.clamped_change
    rw [State.afterOff_of_transmitting begun.engine held still, State.closeIfOff_waits (.inr ⟨k, still⟩)] at run
    exact ⟨w, clampChange e.change, run, begun.engine, fun ha => ⟨_, clampedRecord_clampRecord r, by rw [ha]; rfl⟩,
      fun hrel => by rw [hrel]; rfl, begun.frame.changes, begun.marked, begun.turned, begun.frame.generation, begun.frame.samePlan,
      fun j => ⟨begun.words j, begun.primary j, begun.fallback j, begun.frame.sel j⟩, begun.others, begun.ports, begun.out,
      begun.frame.store, begun.feeds, begun.bEff⟩
  case ends =>
    have run := State.exec_slotChange_on h hc (by rw [hr]; decide)
    generalize (s.without e).drainBegun e.clamped k = w at *
    have off : (w.slot k).ramp.state = .off := begun.turned.off (.inr ⟨hr, hs⟩)
    rcases hc with hc | hc
    · have ended := (State.afterOff_assign begun.engine (Entry.clamped_change hc) off).after begun.frame
      exact ⟨_, run, ended.applied.taken, ended.engine, ended.changes, fun _ => ⟨_, clampedRecord_clampRecord r, ended.fresh⟩,
        fun hrel => absurd (hc.symm.trans hrel) (by simp), ended.shows, ended.record, ended.wide, ended.store⟩
    · have ended := (State.afterOff_release begun.engine (Entry.clamped_change hc) off).after begun.frame
      exact ⟨_, run, ended.applied.taken, ended.engine, ended.changes, fun ha => absurd (hc.symm.trans ha) (by simp), fun _ => ended.fresh,
        ended.shows, ended.record, ended.wide, ended.store⟩

/-! ## The drain of a load (R47) -/

/-- The drain of a load begun: the engine holds the change, every assigned slot is marked, and every slot is turned down. -/
structure State.LoadBegun (s : State) (e : Entry) (w : State) : Prop where
  engine : w.engine = .draining e
  frame : s.DrainFrame w
  marked : ∀ k, (w.slot k).retuning = ((s.slot k).retuning || (s.slot k).record.assigned)
  turned : ∀ k, TurnedDown s.wide.rampStep (s.slot k).ramp (w.slot k).ramp

/-- The marks of every assigned slot set as the drain of a load begins. -/
def State.allMarked (s : State) (e : Entry) : State :=
  ({ s with engine := .draining e }).mapSlots fun _ x => { x with retuning := x.retuning || x.record.assigned }

theorem State.allMarked_slot (s : State) (e : Entry) (k : SlotIx) :
    (s.allMarked e).slot k = { s.slot k with retuning := (s.slot k).retuning || (s.slot k).record.assigned } :=
  State.slot_mapSlots _ _ k

theorem State.loadBegun_begun (s : State) (e : Entry) : s.LoadBegun e (s.loadBegun e) := by
  have begun : s.loadBegun e = (s.allMarked e).reformAll := rfl
  have air := (s.allMarked e).airFrame_reformAll
  have marks : s.DrainFrame (s.allMarked e) :=
    ⟨rfl, rfl, rfl, State.mapSlots_store _ _, fun k => by rw [State.allMarked_slot], fun k => by rw [State.allMarked_slot],
      fun p => congrArg PortState.outcomes (State.port_mapSlots _ _ p)⟩
  have down : ∀ k, (s.allMarked e).onDemand k = false := fun k => State.onDemand_of_shut (by
    rw [State.allMarked_slot, Slot.Shut]
    cases (s.slot k).record.assigned <;> simp)
  rw [begun]
  refine ⟨air.engine.trans rfl, marks.trans air.drainFrame, fun k => by rw [air.retuning, State.allMarked_slot], fun k => ?_⟩
  rw [State.reformAll_slot_ramp, down, State.allMarked_slot]
  exact Ramp.react_false _ _

theorem State.exec_load {s : State} {e : Entry} {n : PresetIx} (h : s.Passes e) (hc : e.change = .loadPreset n) :
    exec .loadPreset s = .next ((s.without e).loadBegun e).afterOff := by
  have clamped : e.clamped = e := by
    rw [Entry.clamped, hc, clampChange, ← hc]
  refine (h.exec hc).trans (congrArg _ ?_)
  rw [clamped, State.carryOut, hc]
  exact State.takeLoad_eq _ e

/-- Settles O26: every assigned slot is marked and turned down, and the drain ends at the taking exactly where no marked slot is left on the
air. -/
theorem loadPresetDrainsThenAsksForTheRead : Obligations.LoadPresetDrainsThenAsksForTheRead := by
  unfold Obligations.LoadPresetDrainsThenAsksForTheRead
  intro s e n h hc
  have run := State.exec_load h hc
  have begun := (s.without e).loadBegun_begun e
  generalize (s.without e).loadBegun e = w at *
  have marked : ∀ k, (w.slot k).retuning = ((s.slot k).retuning || (s.slot k).record.assigned) := begun.marked
  have turned : ∀ k, TurnedDown s.wide.rampStep (s.slot k).ramp (w.slot k).ramp := begun.turned
  have store : w.store = s.store := begun.frame.store
  by_cases off : ∀ k, (w.slot k).retuning = true → (w.slot k).ramp.state = .off
  case pos =>
    have asking := State.afterOff_load begun.engine hc off
    have read := asking.read
    unfold AskedForRead at read
    rw [store] at read
    refine ⟨_, run, asking.changes.trans begun.frame.changes, asking.generation.trans begun.frame.generation,
      ⟨asking.wide.trans begun.frame.wide, fun k => (asking.record k).trans (begun.frame.record k)⟩,
      fun k => (asking.retuning k).trans (marked k), fun k _ => by rw [asking.ramp]; exact turned k,
      fun p => (asking.outcomes p).trans (begun.frame.outcomes p), fun m => by rw [asking.preset, store], fun _ => ⟨asking.engine, read⟩,
      fun ⟨k, ha, hr⟩ => ?_⟩
    exact absurd (off k (by rw [marked, ha, Bool.or_true])) ((turned k).on hr)
  case neg =>
    push Not at off
    obtain ⟨k, hk, on⟩ := off
    rw [State.afterOff_load_waits begun.engine hc ⟨k, hk, on⟩, State.closeIfOff_waits (.inr ⟨k, on⟩)] at run
    exact ⟨w, run, begun.frame.changes, begun.frame.generation, begun.frame.samePlan, marked, fun k _ => turned k,
      begun.frame.outcomes, fun m => by rw [store], fun low => absurd ((turned k).off (low k hk)) on, fun _ => ⟨begun.engine, store⟩⟩

end Sys2Proof.Machine
end

section
/-! PROOF. DEVICE_RESET, END_OF_RESET and the boot read (R115, R142 to R145). -/

namespace Sys2Proof.Machine

/-! ## DEVICE_RESET (R115, R142) -/

/-- The preset that a cut store operation was writing. -/
def Activity.Writes (a : Activity) (n : PresetIx) : Prop :=
  ∃ p, (∃ img, a = .savingErase n img p ∨ a = .savingProgram n img p) ∨ a = .erasing n p

theorem Store.cut_writes {st : Store} {n : PresetIx} (h : st.activity.Writes n) :
    (∀ m, st.cut.preset m = if m = n then .corrupt else st.preset m) ∧ st.cut.boot = st.boot := by
  have cut : st.cut = { Store.factory with presets := (st.putPreset n .corrupt).presets, boot := (st.putPreset n .corrupt).boot } := by
    obtain ⟨p, ⟨img, h | h⟩ | h⟩ := h <;> rw [Store.cut, h]
  rw [cut]
  exact ⟨fun m => st.preset_putPreset n m .corrupt, rfl⟩

theorem Store.cut_writingBoot {st : Store} {sel : Option PresetIx} {p : Port} (h : st.activity = .writingBoot sel p) :
    st.cut.boot = none ∧ ∀ m, st.cut.preset m = st.preset m := by
  rw [Store.cut, h]
  exact ⟨rfl, fun _ => rfl⟩

theorem Store.cut_calm {st : Store} {n : PresetIx} (h : st.activity = .idle ∨ st.activity = .reading n) :
    st.cut.boot = st.boot ∧ ∀ m, st.cut.preset m = st.preset m := by
  rcases h with h | h <;> rw [Store.cut, h] <;> exact ⟨rfl, fun _ => rfl⟩

/-- Settles O4: every block is the one that the reset state has, and the store is the one that the cut leaves. -/
theorem deviceResetRestsEveryBlockAndSettlesTheStore : Obligations.DeviceResetRestsEveryBlockAndSettlesTheStore := by
  unfold Obligations.DeviceResetRestsEveryBlockAndSettlesTheStore
  intro s
  refine ⟨s.deviceReset, rfl, rfl, rfl, fun k => ?_, rfl, rfl, fun f => ?_, rfl, rfl, rfl, rfl, rfl, rfl, rfl, rfl, rfl, rfl, rfl,
    State.port_deviceReset s, fun n snapshot p h => ?_, fun sel p h => Store.cut_writingBoot h, fun n h => Store.cut_calm h, rfl, rfl, rfl⟩
  · rw [State.slot_deviceReset]
    exact ⟨rfl, rfl, rfl, rfl, rfl, rfl, rfl, rfl, rfl⟩
  · cases f <;> rfl
  · have writes : s.store.activity.Writes n := ⟨p, by
      rcases h with h | h | h
      · exact .inl ⟨snapshot, .inl h⟩
      · exact .inl ⟨snapshot, .inr h⟩
      · exact .inr h⟩
    obtain ⟨preset, boot⟩ := Store.cut_writes writes
    exact ⟨(preset n).trans (if_pos rfl), fun m hm => (preset m).trans (if_neg hm), boot⟩

/-! ## END_OF_RESET (R143) -/

theorem State.exec_endOfReset {s : State} (h : s.resetHeld = true) (hi lo : Bool) :
    exec (.endOfReset hi lo) s = .next (s.released hi lo).bootDecision :=
  congrArg _ ((if_pos h).trans (s.endOfReset_eq hi lo))

/-- What the end of a reset leaves whatever the boot decision (R61, R101, R115). -/
structure State.ResetEnded (s : State) (hi lo : Bool) (t : State) : Prop where
  resetHeld : t.resetHeld = false
  monitorIn : t.monitorIn = 10
  protHi : t.protHi = hi
  protLo : t.protLo = lo
  out : t.out = { s.out with level := protectionOf hi lo }
  bEff : t.bEff = effectiveBudget s.wide.budget (protectionOf hi lo)
  protection : ∀ p, (t.port p).latched .protection = (s.port p).latched .protection
  generation : t.generation = s.generation
  wide : t.wide = s.wide
  record : ∀ k, (t.slot k).record = (s.slot k).record

theorem State.resetEnded_read (s : State) (hi lo : Bool) (st : Store) :
    s.ResetEnded hi lo { s.released hi lo with store := st } where
  resetHeld := s.released_resetHeld hi lo
  monitorIn := s.released_monitorIn hi lo
  protHi := (s.released_lines hi lo).1
  protLo := (s.released_lines hi lo).2
  out := s.released_out hi lo
  bEff := s.released_bEff hi lo
  protection p := congrArg (PortState.latched · .protection) (s.port_released hi lo p)
  generation := s.released_generation hi lo
  wide := s.released_wide hi lo
  record := s.released_slot_record hi lo

theorem State.bootNoted_latched (s : State) (r : BootResult) (p : Port) (c : Cause) :
    ((s.bootNoted r).port p).latched c = ((s.port p).latched c || decide (.boot = c)) :=
  (congrArg (PortState.latched · c) (State.port_latchBoth _ p .boot)).trans (PortState.latched_or (s.port p) .boot c)

theorem State.ResetEnded.noted {s u : State} {hi lo : Bool} (h : s.ResetEnded hi lo u) (r : BootResult) :
    s.ResetEnded hi lo (u.bootNoted r) where
  resetHeld := h.resetHeld
  monitorIn := h.monitorIn
  protHi := h.protHi
  protLo := h.protLo
  out := h.out
  bEff := h.bEff
  protection p := by rw [State.bootNoted_latched, h.protection]; exact Bool.or_false _
  generation := h.generation
  wide := h.wide
  record := h.record

/-- A boot that ends without a load notes its result, and sets the BOOT latches (R145). -/
theorem State.endBoot_noted {s : State} (h : s.wide.txEnable = false) (r : BootResult) :
    s.endBoot r = s.bootNoted r ∧ (s.bootNoted r).engine = .idle ∧ (s.bootNoted r).store.bootResult = r ∧
      ∀ p, ((s.bootNoted r).port p).latched .boot = true :=
  ⟨State.endBoot_of_txEnable h r, rfl, rfl, fun p => by rw [State.bootNoted_latched]; exact Bool.or_true _⟩

theorem State.bootDecision_none {s : State} (h : s.store.boot = none) : s.bootDecision = s.endBoot .none := by
  rw [State.bootDecision, h]

theorem State.bootDecision_empty {s : State} {n : PresetIx} (h : s.store.boot = some n) (hp : s.store.preset n = .empty) :
    s.bootDecision = s.endBoot .empty := by
  simp only [State.bootDecision, h, hp]

theorem State.bootDecision_corrupt {s : State} {n : PresetIx} (h : s.store.boot = some n) (hp : s.store.preset n = .corrupt) :
    s.bootDecision = s.endBoot .corrupt := by
  simp only [State.bootDecision, h, hp]

theorem State.bootDecision_valid {s : State} {n : PresetIx} {img : PlanImage} (h : s.store.boot = some n)
    (hp : s.store.preset n = .valid img) : s.bootDecision = { s with store := s.store.askRead n } := by
  simp only [State.bootDecision, h, hp]

/-- Settles O5: whatever the boot decision, the level and the budget are those of the lines; the decision itself is Table 8.5.1. -/
theorem endOfResetDecidesTheBoot : Obligations.EndOfResetDecidesTheBoot := by
  unfold Obligations.EndOfResetDecidesTheBoot
  intro s hi lo hr hidle htx
  have wide : (s.released hi lo).wide.txEnable = false := by rw [State.released_wide, htx]
  have store : (s.released hi lo).store = s.store := s.released_store hi lo
  have read := s.resetEnded_read hi lo ((s.released hi lo).store)
  have reads := fun n => s.resetEnded_read hi lo ((s.released hi lo).store.askRead n)
  have engine : (s.released hi lo).engine = s.engine := s.released_engine hi lo
  have ports : ∀ p, (s.released hi lo).port p = s.port p := s.port_released hi lo
  have ended : s.ResetEnded hi lo (s.released hi lo).bootDecision := by
    rcases (s.released hi lo).bootDecision_cases with ⟨-, e⟩ | ⟨_, -, -, e⟩ | ⟨_, -, -, e⟩ | ⟨n, _, -, -, e⟩ <;> rw [e]
    case inr.inr.inr => exact reads n
    all_goals
      rw [(State.endBoot_noted wide _).1]
      exact read.noted _
  have run := State.exec_endOfReset hr hi lo
  generalize s.released hi lo = u at *
  refine ⟨_, run, ended.resetHeld, ended.monitorIn, ended.protHi, ended.protLo, fun h => ?_, fun h h' => ?_, fun h h' => ?_,
    ended.protection, by rw [ended.out], by rw [ended.out], by rw [ended.out], ended.generation, ⟨ended.wide, ended.record⟩, fun hb => ?none,
    fun n hb hp => ?empty, fun n hb hp => ?corrupt, fun n img hb hp => ?valid⟩
  case none =>
    obtain ⟨noted, rest⟩ := State.endBoot_noted wide .none
    rw [State.bootDecision_none (by rw [store, hb]), noted]
    exact rest
  case empty =>
    obtain ⟨noted, rest⟩ := State.endBoot_noted wide .empty
    rw [State.bootDecision_empty (n := n) (by rw [store, hb]) (by rw [store, hp]), noted]
    exact rest
  case corrupt =>
    obtain ⟨noted, rest⟩ := State.endBoot_noted wide .corrupt
    rw [State.bootDecision_corrupt (n := n) (by rw [store, hb]) (by rw [store, hp]), noted]
    exact rest
  case valid =>
    rw [State.bootDecision_valid (n := n) (by rw [store, hb]) (by rw [store, hp]), store, Store.askRead, if_pos hidle]
    exact ⟨engine, rfl, rfl, rfl, ports⟩
  · rw [ended.out, ended.bEff, h]
    exact ⟨rfl, rfl⟩
  · rw [ended.out, ended.bEff, h, h']
    exact ⟨rfl, rfl⟩
  · rw [ended.out, ended.bEff, h, h']
    exact ⟨rfl, rfl⟩

/-! ## Ramps of slots that start afresh (R49, R89) -/

/-- A slot that has not left step 0: ramping up exactly where its on-demand condition holds, and OFF otherwise. -/
def State.FreshRamp (s : State) (k : SlotIx) : Prop :=
  (s.onDemand k = true → (s.slot k).ramp = ⟨.rampUp, 0, some s.wide.rampStep⟩) ∧ (s.onDemand k = false → (s.slot k).ramp = .rest)

theorem State.reformAll_onDemand (s : State) (k : SlotIx) : s.reformAll.onDemand k = s.onDemand k :=
  State.onDemand_congr (State.airOpen_congr (by rw [State.reformAll_out]) (by rw [State.reformAll_out])) (s.airFrame_reformAll.wanted k)

theorem State.freshRamp_reformAll {s : State} {k : SlotIx}
    (h : (s.slot k).ramp = .rest ∨ (s.slot k).ramp = ⟨.rampUp, 0, some s.wide.rampStep⟩) : s.reformAll.FreshRamp k := by
  unfold State.FreshRamp
  rw [State.reformAll_onDemand, State.reformAll_slot_ramp, State.reformAll_wide]
  refine ⟨fun d => ?_, fun d => ?_⟩ <;> rw [d] <;> rcases h with h | h <;> rw [h] <;> rfl

namespace State.FreshRamp

variable {s t : State} {k : SlotIx}

theorem started (h : s.FreshRamp k) : (s.slot k).ramp = .rest ∨ (s.slot k).ramp = ⟨.rampUp, 0, some s.wide.rampStep⟩ := by
  obtain ⟨up, down⟩ := h
  cases d : s.onDemand k with
  | true => exact .inr (up d)
  | false => exact .inl (down d)

theorem same (h : s.FreshRamp k) (hr : (t.slot k).ramp = (s.slot k).ramp) (hw : t.wide = s.wide) (hd : t.onDemand k = s.onDemand k) :
    t.FreshRamp k := by
  unfold State.FreshRamp
  rw [hr, hw, hd]
  exact h

theorem formQuiet (h : s.FreshRamp k) : s.formQuiet.FreshRamp k :=
  h.same (by rw [State.slot_formQuiet]) (State.formQuiet_wide s)
    (State.onDemand_congr (State.airOpen_congr (by rw [State.formQuiet_out]) (by rw [State.formQuiet_out])) (by rw [State.slot_formQuiet]))

theorem commit (h : s.FreshRamp k) (e : Entry) : (s.commit e).FreshRamp k :=
  h.same (by rw [State.slot_commit]) (State.commit_wide s e)
    (State.onDemand_congr (State.airOpen_congr (by rw [State.commit_out]) (by rw [State.commit_out])) (by rw [State.slot_commit]))

theorem setTx (h : s.FreshRamp k) (hs : s.out.state ≠ .onAir) {x : TxState} (hx : x ≠ .onAir) : (s.setTx x).FreshRamp k := by
  have before : s.airOpen = false := Bool.eq_false_iff.mpr fun o => hs (s.airOpen_iff.mp o).1
  have after : (s.setTx x).airOpen = false := Bool.eq_false_iff.mpr fun o => hx (by
    have onAir := ((s.setTx x).airOpen_iff.mp o).1
    rwa [State.setTx_out] at onAir)
  refine h.same (by rw [State.slot_setTx]) (State.setTx_wide s x) ?_
  rw [State.onDemand, State.onDemand, before, after]
  rfl

theorem enterOnAir (h : s.FreshRamp k) : s.enterOnAir.FreshRamp k :=
  (State.freshRamp_reformAll (by rw [State.slot_setTx, State.setTx_wide]; exact h.started)).formQuiet

theorem closeIfOff (h : s.FreshRamp k) : s.closeIfOff.FreshRamp k := by
  unfold State.closeIfOff
  split
  next g closing =>
    split
    · exact h.setTx (by rw [closing]; nofun) (by cases g <;> decide)
    · exact h
  next => exact h

theorem enterClosing (h : s.FreshRamp k) (g : Target) : (s.enterClosing g).FreshRamp k :=
  (State.freshRamp_reformAll (by rw [State.slot_setTx, State.setTx_wide]; exact h.started)).closeIfOff

theorem enterWarmUp (h : s.FreshRamp k) (hs : s.out.state ≠ .onAir) : s.enterWarmUp.FreshRamp k := by
  rw [State.enterWarmUp_eq]
  exact h.setTx hs (by split_ifs <;> decide)

theorem measureQuiet (h : s.FreshRamp k) : s.measureQuiet.FreshRamp k := by
  unfold State.measureQuiet State.quietExpired
  split
  · split_ifs
    · exact h.formQuiet.enterClosing _
    · exact h.formQuiet
    · exact h.formQuiet
  · exact h.formQuiet

theorem txEnableWritten (h : s.FreshRamp k) (v : Bool) : (s.txEnableWritten v).FreshRamp k := by
  unfold State.txEnableWritten State.txDisabled
  split_ifs
  · exact h
  · rcases s.txEnabled_cases with ⟨hs, e⟩ | ⟨-, e⟩ | ⟨-, -, e⟩ <;> rw [e]
    · exact h.enterWarmUp (by rw [hs]; decide)
    · exact h.enterOnAir
    · exact h
  · split
    next hs => exact h.setTx (by rw [hs]; decide) (by decide)
    next => exact h.enterClosing _
    next hs => exact h.setTx (by rw [hs]; decide) (by decide)
    next hs => exact h.setTx (by rw [hs]; decide) (by decide)
    next => exact h

end State.FreshRamp

/-! ## An image loaded (R49, R144) -/

/-- The image in the plan and D formed, before the quiet time is measured. -/
def State.imageFormed (s : State) (img : PlanImage) : State := (s.latchHeld (s.imaged img)).formBudget.reformAll

theorem State.loadImage_measured (s : State) (img : PlanImage) : s.loadImage img = (s.imageFormed img).measureQuiet := rfl

/-- What no SOURCE mark moves, the marks of a load leave. -/
theorem State.latchHeld_keeps {P : State → Prop} (h : ∀ t k, P t → P (t.latchSource k)) (s t : State) (ht : P t) : P (s.latchHeld t) :=
  State.sweep_keeps (fun u k hu => by
    split
    · exact h u k hu
    · exact hu) slotIndices t ht

theorem State.latchHeld_slots (s t : State) : (s.latchHeld t).slots = t.slots :=
  State.latchHeld_keeps (P := fun u => u.slots = t.slots) (fun u k h => (State.latchSource_slots u k).trans h) s t rfl

theorem State.latchHeld_out (s t : State) : (s.latchHeld t).out = t.out :=
  State.latchHeld_keeps (P := fun u => u.out = t.out) (fun u k h => (State.latchSource_out u k).trans h) s t rfl

theorem State.latchHeld_latched (s t : State) (p : Port) {c : Cause} (hc : c ≠ .source) :
    ((s.latchHeld t).port p).latched c = (t.port p).latched c :=
  State.latchHeld_keeps (P := fun u => (u.port p).latched c = (t.port p).latched c) (fun u k h => by
    rw [State.port_latchSource]
    exact (PortState.latched_or (u.port p) .source c).trans (by rw [h, decide_eq_false hc.symm, Bool.or_false])) s t rfl

@[simp] theorem State.imaged_out (s : State) (img : PlanImage) : (s.imaged img).out = s.out :=
  State.mapSlots_out s fun k x => x.start img.records[k.val]

@[simp] theorem State.port_imaged (s : State) (img : PlanImage) (p : Port) : (s.imaged img).port p = s.port p :=
  State.port_mapSlots s (fun k x => x.start img.records[k.val]) p

theorem State.formBudget_slot (s : State) (k : SlotIx) : s.formBudget.slot k = s.slot k := rfl

theorem State.formBudget_port (s : State) (p : Port) : s.formBudget.port p = s.port p := rfl

theorem State.imageFormed_wide (s : State) (img : PlanImage) : (s.imageFormed img).wide = img.wide := by
  rw [State.imageFormed, State.reformAll_wide, State.formBudget_wide, (s.feedFrame_latchHeld _).wide]
  rfl

theorem State.imageFormed_out (s : State) (img : PlanImage) : (s.imageFormed img).out = s.out := by
  rw [State.imageFormed, State.reformAll_out, State.formBudget_out, State.latchHeld_out, State.imaged_out]

theorem State.imageFormed_latched (s : State) (img : PlanImage) (p : Port) {c : Cause} (hc : c ≠ .source) :
    ((s.imageFormed img).port p).latched c = (s.port p).latched c := by
  rw [State.imageFormed, State.port_reformAll, State.formBudget_port, State.latchHeld_latched s _ p hc, State.port_imaged]

theorem State.latchHeld_imaged_slot (s : State) (img : PlanImage) (k : SlotIx) :
    (s.latchHeld (s.imaged img)).slot k = (s.slot k).start img.records[k.val] := by
  rw [State.slot_congr (s.latchHeld_slots _), State.slot_imaged]

theorem State.imageFormed_sel (s : State) (img : PlanImage) (k : SlotIx) : ((s.imageFormed img).slot k).sel.source = .lost := by
  rw [State.imageFormed, State.reformAll_slot_sel, State.formBudget_slot, State.latchHeld_imaged_slot]
  rfl

theorem State.imageFormed_freshRamp {s : State} {k : SlotIx} (h : (s.slot k).ramp = .rest) (img : PlanImage) :
    (s.imageFormed img).FreshRamp k :=
  State.freshRamp_reformAll (.inl (by
    rw [State.formBudget_slot, State.latchHeld_imaged_slot]
    exact h))

/-- No slot has a source after a load, so the quiet condition is the transmitter's, the plan's and the hold set's. -/
theorem State.imageFormed_quietCondition (s : State) (img : PlanImage) :
    (s.imageFormed img).quietCondition = true ↔ s.out.state = .onAir ∧ img.wide.quietTime ≠ 0 ∧ s.holdEmpty = true := by
  have held : (s.imageFormed img).holdEmpty = s.holdEmpty := by rw [State.holdEmpty, State.holdEmpty, State.imageFormed_out]
  rw [State.quietCondition_iff, State.imageFormed_out, State.imageFormed_wide, held]
  exact ⟨fun ⟨onAir, time, empty, _⟩ => ⟨onAir, time, empty⟩,
    fun ⟨onAir, time, empty⟩ => ⟨onAir, time, empty, fun k _ _ => s.imageFormed_sel img k⟩⟩

theorem State.loadImage_shows {s : State} {k : SlotIx} (h : (s.slot k).sel.source ≠ .lost) (img : PlanImage) :
    (s.loadImage img).ShowsSource k := by
  obtain ⟨u, -, -, -, frame, -, shows⟩ := s.loadImage_frame img
  intro p
  obtain ⟨source, changed⟩ := shows k (bne_iff_ne.mpr h) p
  exact ⟨frame.latched source, (congrArg (fun c => BitVec.getLsbD c k.val) (frame.changed p)).trans changed⟩

theorem State.loadImage_fresh (s : State) (img : PlanImage) (k : SlotIx) :
    StartedAfresh img.records[k.val] ((s.loadImage img).slot k) := by
  obtain ⟨record, listening⟩ := s.loadImage_slot img k
  exact .of_start record listening

theorem State.loadImage_budget (s : State) (img : PlanImage) : (s.loadImage img).BudgetOfLevel := by
  obtain ⟨u, -, -, -, frame, -⟩ := s.loadImage_frame img
  exact u.budgetOfLevel_formBudget.air frame

/-- Neither outcomes nor any latch but SOURCE and TX_STATE move with a load. -/
theorem State.loadImage_ports (s : State) (img : PlanImage) (p : Port) :
    ((s.loadImage img).port p).outcomes = (s.port p).outcomes ∧
      ∀ c : Cause, c ≠ .txState → c ≠ .source → ((s.loadImage img).port p).latched c = (s.port p).latched c := by
  have frame := (s.imageFormed img).airFrame_measureQuiet
  have formed := (s.feedFrame_latchHeld (s.imaged img)).outcomes p
  rw [State.loadImage_measured]
  refine ⟨?_, fun c ht hs => ?_⟩
  · rw [frame.outcomes, State.imageFormed, State.port_reformAll, State.formBudget_port, formed, State.port_imaged]
  · rw [frame.feedFrame.latched_of_ne p ht hs, State.imageFormed_latched s img p hs]

theorem StartedAfresh.air {s t : State} {r : SlotRecord} {k : SlotIx} (h : StartedAfresh r (s.slot k)) (f : s.AirFrame t) :
    StartedAfresh r (t.slot k) := by
  obtain ⟨record, words, primary, fallback, sel, retuning⟩ := h
  exact ⟨(f.record k).trans record, (f.words k).trans words, (f.primary k).trans primary, (f.fallback k).trans fallback,
    (f.sel k).trans sel, (f.retuning k).trans retuning⟩

/-! ## The boot read (R144, R145) -/

/-- The state at the end of a boot read, before the transmitter acts on the image's tx_enable. -/
def State.bootLoaded (s : State) (img : PlanImage) : State :=
  State.bootNoted { s.readEnded.loadImage img with generation := s.generation + 1 } .loaded

theorem State.exec_bootRead {s : State} {n : PresetIx} {img : PlanImage} (ha : s.store.activity = .reading n)
    (hp : s.store.preset n = .valid img) (he : s.engine = .booting) :
    exec .readCompletion s = .next ((s.bootLoaded img).txEnableWritten false) :=
  congrArg _ (State.endRead_booting ha hp he)

theorem State.bootLoaded_latched (s : State) (img : PlanImage) (p : Port) (c : Cause) :
    ((s.bootLoaded img).port p).latched c = (((s.readEnded.loadImage img).port p).latched c || decide (.boot = c)) :=
  State.bootNoted_latched _ _ p c

theorem State.bootLoaded_outcomes (s : State) (img : PlanImage) (p : Port) : ((s.bootLoaded img).port p).outcomes = (s.port p).outcomes :=
  (congrArg PortState.outcomes (State.port_latchBoth _ p .boot)).trans (s.readEnded.loadImage_ports img p).1

/-- Settles O6: the image is loaded away from the air, and the transmitter then starts from OFF_AIR where the image asks for it. -/
theorem bootReadLoadsTheImage : Obligations.BootReadLoadsTheImage := by
  unfold Obligations.BootReadLoadsTheImage
  intro s n img ha hp he hs
  have run := State.exec_bootRead ha hp he
  have out : (s.bootLoaded img).out = _ := s.readEnded.loadImage_out (img := img) (by rw [State.readEnded, hs]; decide)
  obtain ⟨wide, -, -, changes, store, -, -, -, level, -⟩ := s.readEnded.loadImage_rest img
  have state : (s.bootLoaded img).out.state = .offAir := by rw [out]; exact hs
  have txState : ∀ p, ((s.bootLoaded img).port p).latched .txState = (s.port p).latched .txState := fun p => by
    rw [State.bootLoaded_latched, State.loadImage_measured,
      State.measureQuiet_of_not_onAir (by rw [State.imageFormed_out, State.readEnded, hs]; decide), State.port_formQuiet,
      State.imageFormed_latched _ img p (by decide)]
    exact Bool.or_false _
  have frame := (s.bootLoaded img).airFrame_txEnableWritten false
  have shown := ((s.bootLoaded img).showsTransmitter_txEnableWritten false).after (state.trans hs.symm) txState
  have entered := (s.bootLoaded img).enterWarmUp_entered
  have bWide : (s.bootLoaded img).wide = img.wide := wide
  have bLevel : (s.bootLoaded img).out.level = s.out.level := level
  have bStore : (s.bootLoaded img).store = { s.store.endRead with bootResult := .loaded } :=
    congrArg (fun st : Store => { st with bootResult := .loaded }) store
  have stays : img.wide.txEnable = false → (s.bootLoaded img).txEnableWritten false = s.bootLoaded img := fun h =>
    State.txEnableWritten_same (by rw [bWide, h])
  have starts : img.wide.txEnable = true → (s.bootLoaded img).txEnableWritten false = (s.bootLoaded img).enterWarmUp := fun h =>
    (State.txEnableWritten_enabled (by rw [bWide, h]) rfl).trans (State.txEnabled_offAir state)
  refine ⟨_, run, frame.wide.trans bWide, frame.generation.trans rfl, fun k => (s.readEnded.loadImage_fresh img k).air (s := s.bootLoaded img) frame,
    (State.BudgetOfLevel.air (s := s.bootLoaded img) (s.readEnded.loadImage_budget img) frame), frame.level.trans bLevel,
    frame.changes.trans changes, frame.engine.trans rfl, by rw [frame.store, bStore]; rfl, by rw [frame.store, bStore]; rfl,
    by rw [frame.store, bStore], by rw [frame.store, bStore]; rfl, fun m => by rw [frame.store, bStore]; exact s.store.preset_endRead m,
    fun p => ⟨frame.latched ?_, ?_, ?_⟩, shown, fun h => by rw [stays h]; exact state, fun h hl => ?_, fun h hl => ?_⟩
  · rw [State.bootLoaded_latched]
    exact Bool.or_true _
  · rw [frame.outcomes, State.bootLoaded_outcomes]
  · rw [frame.feedFrame.latched_of_ne p (by decide) (by decide), State.bootLoaded_latched, (s.readEnded.loadImage_ports img p).2 .plan (by decide) (by decide)]
    exact Bool.or_false _
  · obtain ⟨onState, paEn, ms, timer, time⟩ := entered.1 (by rw [bLevel]; exact hl)
    rw [(State.airFrame_enterWarmUp _).wide, bWide] at time
    rw [starts h]
    exact ⟨onState, paEn, ms, timer, time⟩
  · obtain ⟨onState, paEn, -⟩ := entered.2 (by rw [bLevel]; exact hl)
    rw [starts h]
    exact ⟨onState, paEn⟩

end Sys2Proof.Machine
end

section
/-! PROOF. The completion of a LOAD_PRESET (R49, R118, R123, R139). -/

namespace Sys2Proof.Machine

/-! ## The quiet timer through the transmitter's moves (R122) -/

/-- The quiet timer runs exactly where the quiet condition holds. -/
def State.QuietFormed (s : State) : Prop := s.out.quiet.isSome = true ↔ s.Quiet

theorem State.quietFormed_stopped {s : State} (hq : s.out.quiet = none) (hs : s.out.state ≠ .onAir) : s.QuietFormed := by
  unfold State.QuietFormed
  rw [hq]
  exact ⟨fun h => absurd h (by decide), fun ⟨onAir, _⟩ => absurd onAir hs⟩

theorem State.quietFormed_formQuiet (s : State) : s.formQuiet.QuietFormed := s.formQuiet_forms.1

theorem State.quietFormed_setTx (s : State) {x : TxState} (h : x ≠ .onAir) : (s.setTx x).QuietFormed :=
  State.quietFormed_stopped (s.setTx_quiet h).1 (by rw [State.setTx_out]; exact h)

theorem State.enterClosing_state (s : State) (g : Target) :
    (s.enterClosing g).out.state = g.state ∨ (s.enterClosing g).out.state = .closing g := by
  obtain ⟨closed, closing, -⟩ := s.enterClosing_out g
  by_cases off : ∀ k, ((s.enterClosing g).slot k).ramp.state = .off
  · exact .inl (closed off).1
  · exact .inr (closing (not_forall.mp off)).1

theorem Target.state_ne_onAir (g : Target) : g.state ≠ .onAir := by cases g <;> decide

theorem State.quietFormed_enterClosing (s : State) (g : Target) : (s.enterClosing g).QuietFormed := by
  refine State.quietFormed_stopped (s.enterClosing_out g).2.2.1 ?_
  rcases s.enterClosing_state g with e | e <;> rw [e]
  · exact g.state_ne_onAir
  · nofun

theorem State.quietFormed_measureQuiet (s : State) : s.measureQuiet.QuietFormed := by
  by_cases h : s.quietCondition = true ∧ s.wide.quietTime * 1000 ≤ s.out.quiet.getD 0
  · rw [State.measureQuiet_expired h.1 h.2]
    exact State.quietFormed_enterClosing _ _
  · rw [State.measureQuiet_formed h]
    exact s.quietFormed_formQuiet

theorem State.QuietFormed.txEnableWritten {s : State} (h : s.QuietFormed) (v : Bool) : (s.txEnableWritten v).QuietFormed := by
  unfold State.txEnableWritten State.txDisabled
  split_ifs
  · exact h
  · rcases s.txEnabled_cases with ⟨-, e⟩ | ⟨-, e⟩ | ⟨-, -, e⟩ <;> rw [e]
    · rw [State.enterWarmUp_eq]
      exact s.quietFormed_setTx (by split_ifs <;> decide)
    · exact State.quietFormed_formQuiet _
    · exact h
  · split
    · exact s.quietFormed_setTx (by decide)
    · exact s.quietFormed_enterClosing _
    · exact s.quietFormed_setTx (by decide)
    · exact s.quietFormed_setTx (by decide)
    · exact h

/-! ## The quiet time of the image measured (R123) -/

/-- The quiet timer has reached the image's quiet time. -/
def State.Overdue (s : State) (img : PlanImage) : Prop :=
  s.holdEmpty = true ∧ img.wide.quietTime ≠ 0 ∧ img.wide.quietTime * 1000 ≤ s.out.quiet.getD 0

/-- What the measurement leaves of the transmitter: closed or closing where the timer is overdue on the air, and otherwise as it was. -/
structure State.ImageMeasured (s : State) (img : PlanImage) (y : State) : Prop where
  closed : s.out.state = .onAir → s.Overdue img → (∀ k, (y.slot k).ramp.state = .off) → y.out.state = .standby ∧ y.out.paEn = false
  closing : s.out.state = .onAir → s.Overdue img → (∃ k, (y.slot k).ramp.state ≠ .off) → y.out.state = .closing .standby ∧ y.out.paEn = true
  shows : s.out.state = .onAir → s.Overdue img → ∀ p, (y.port p).latched .txState = true
  stays : ¬ (s.out.state = .onAir ∧ s.Overdue img) →
    y.out.state = s.out.state ∧ y.out.paEn = s.out.paEn ∧ y.out.warmUp = s.out.warmUp ∧
      ∀ p, (y.port p).latched .txState = (s.port p).latched .txState

theorem State.imageMeasured_loadImage (s : State) (img : PlanImage) : s.ImageMeasured img (s.loadImage img) := by
  have quiet := s.imageFormed_quietCondition img
  have out := s.imageFormed_out img
  have wide := s.imageFormed_wide img
  have latched := fun p => s.imageFormed_latched img p (c := .txState) (by decide)
  rw [State.loadImage_measured]
  generalize s.imageFormed img = z at *
  have expired : s.out.state = .onAir → s.Overdue img → z.measureQuiet = z.formQuiet.enterClosing .standby := fun onAir late => by
    obtain ⟨empty, time, reached⟩ := late
    exact State.measureQuiet_expired (quiet.mpr ⟨onAir, time, empty⟩) (by rw [wide, out]; exact reached)
  obtain ⟨closed, closing, -, -, -, shown⟩ := z.formQuiet.enterClosing_out .standby
  have target : Target.standby.state = TxState.standby := rfl
  rw [target] at closed
  refine ⟨fun ha ho => ?_, fun ha ho => ?_, fun ha ho => ?_, fun h => ?_⟩
  · rw [expired ha ho]
    exact closed
  · rw [expired ha ho]
    exact closing
  · rw [expired ha ho]
    exact shown
  · have formed : z.measureQuiet = z.formQuiet := State.measureQuiet_formed fun ⟨condition, reached⟩ => by
      obtain ⟨onAir, time, empty⟩ := quiet.mp condition
      rw [wide, out] at reached
      exact h ⟨onAir, empty, time, reached⟩
    rw [formed, State.formQuiet_out, out]
    exact ⟨rfl, rfl, rfl, fun p => by rw [State.port_formQuiet, latched]⟩

theorem State.ImageMeasured.commit {s y : State} {img : PlanImage} (h : s.ImageMeasured img y) (e : Entry) :
    s.ImageMeasured img (y.commit e) := by
  have latched := fun p => State.latched_commit (c := .txState) (by decide) (by decide) y e p
  refine ⟨fun ha ho off => ?_, fun ha ho on => ?_, fun ha ho p => ?_, fun hn => ?_⟩
  · rw [State.commit_out]
    exact h.closed ha ho off
  · rw [State.commit_out]
    exact h.closing ha ho on
  · rw [latched]
    exact h.shows ha ho p
  · rw [State.commit_out]
    obtain ⟨state, paEn, warmUp, ports⟩ := h.stays hn
    exact ⟨state, paEn, warmUp, fun p => (latched p).trans (ports p)⟩

theorem State.ImageMeasured.of_readEnded {s y : State} {img : PlanImage} (h : s.readEnded.ImageMeasured img y) : s.ImageMeasured img y :=
  ⟨h.closed, h.closing, h.shows, h.stays⟩

theorem State.ImageMeasured.expired {s y : State} {img : PlanImage} (h : s.ImageMeasured img y) (ha : s.out.state = .onAir)
    (ho : s.Overdue img) : y.out.state = .standby ∨ y.out.state = .closing .standby := by
  by_cases off : ∀ k, (y.slot k).ramp.state = .off
  · exact .inl (h.closed ha ho off).1
  · exact .inr (h.closing ha ho (not_forall.mp off)).1

theorem State.txEnableWritten_not_onAir {s : State} (h : s.out.state = .standby ∨ s.out.state = .closing .standby) (v : Bool) :
    (s.txEnableWritten v).out.state ≠ .onAir := by
  have here : s.out.state ≠ .onAir := by rcases h with h | h <;> rw [h] <;> decide
  unfold State.txEnableWritten
  split_ifs
  · exact here
  · rw [State.txEnabled_same (by rcases h with h | h <;> rw [h] <;> decide) (by rcases h with h | h <;> rw [h] <;> decide)]
    exact here
  · rcases h with h | h
    · rw [State.txDisabled_standby h, State.setTx_out]
      nofun
    · rw [State.txDisabled_closing h, State.setTx_out]
      nofun

theorem State.ImageMeasured.showsTransmitter {s y : State} {img : PlanImage} (h : s.ImageMeasured img y) (v : Bool) :
    s.ShowsTransmitter (y.txEnableWritten v) := by
  by_cases late : s.out.state = .onAir ∧ s.Overdue img
  · obtain ⟨onAir, overdue⟩ := late
    refine .of_moved (by rw [onAir]; exact State.txEnableWritten_not_onAir (h.expired onAir overdue) v) fun p => ?_
    exact (y.airFrame_txEnableWritten v).latched (h.shows onAir overdue p)
  · obtain ⟨state, -, -, ports⟩ := h.stays late
    exact (y.showsTransmitter_txEnableWritten v).after state ports

/-! ## The load as a whole -/

/-- The state at the end of a preset read, before the transmitter acts on a tx_enable that the load changed. -/
def State.presetLoaded (s : State) (img : PlanImage) (e : Entry) : State := (s.readEnded.loadImage img).commit e

theorem State.exec_presetRead {s : State} {n : PresetIx} {img : PlanImage} {e : Entry} (ha : s.store.activity = .reading n)
    (hp : s.store.preset n = .valid img) (he : s.engine = .loading e) :
    exec .readCompletion s = .next ((s.presetLoaded img e).txEnableWritten s.wide.txEnable) :=
  congrArg _ (State.endRead_loading ha hp he)

/-- What a load leaves that the transmitter then leaves alone. -/
structure State.PresetLoaded (s : State) (img : PlanImage) (e : Entry) (y : State) : Prop where
  wide : y.wide = img.wide
  applied : Applied s y e
  fresh : ∀ k, StartedAfresh img.records[k.val] (y.slot k)
  shows : ∀ k, (s.slot k).sel.source ≠ .lost → y.ShowsSource k
  engine : y.engine = .idle
  changes : y.changes = s.changes
  store : y.store = s.store.endRead
  budget : y.BudgetOfLevel
  level : y.out.level = s.out.level
  hold : y.out.hold = s.out.hold
  trips : y.out.trips = s.out.trips

theorem State.presetLoaded_loaded (s : State) (img : PlanImage) (e : Entry) : s.PresetLoaded img e (s.presetLoaded img e) := by
  obtain ⟨wide, engine, generation, changes, store, -, hold, trips, level, -⟩ := s.readEnded.loadImage_rest img
  have outcomes := fun p => (s.readEnded.loadImage_ports img p).1
  have fresh := s.readEnded.loadImage_fresh img
  have shows := fun k h => s.readEnded.loadImage_shows (k := k) h img
  have budget := s.readEnded.loadImage_budget img
  unfold State.presetLoaded
  generalize s.readEnded.loadImage img = x at *
  refine ⟨wide, State.applied_commit outcomes generation rfl rfl rfl rfl, fun k => by rw [State.slot_commit]; exact fresh k,
    fun k h => (shows k h).commit e, engine, changes, store, ?_, level, hold, trips⟩
  unfold State.BudgetOfLevel at *
  rw [State.commit_out, State.commit_bEff, State.commit_wide]
  exact budget

theorem State.PresetLoaded.air {s y t : State} {img : PlanImage} {e : Entry} (h : s.PresetLoaded img e y) (f : y.AirFrame t) :
    s.PresetLoaded img e t :=
  ⟨f.wide.trans h.wide, h.applied.air f, fun k => (h.fresh k).air f, fun k hk => (h.shows k hk).kept f.feedFrame,
    f.engine.trans h.engine, f.changes.trans h.changes, f.store.trans h.store, h.budget.air f, f.level.trans h.level,
    f.hold.trans h.hold, f.trips.trans h.trips⟩

theorem State.presetLoaded_freshRamp {s : State} {k : SlotIx} (h : (s.slot k).ramp = .rest) (img : PlanImage) (e : Entry) :
    (s.presetLoaded img e).FreshRamp k :=
  ((State.imageFormed_freshRamp (s := s.readEnded) h img).measureQuiet).commit e

theorem State.presetLoaded_quietFormed (s : State) (img : PlanImage) (e : Entry) : (s.presetLoaded img e).QuietFormed := by
  have formed := (s.readEnded.imageFormed img).quietFormed_measureQuiet
  unfold State.QuietFormed at *
  rw [State.presetLoaded, State.commit_out, State.quiet_commit, State.loadImage_measured]
  exact formed

/-- The ramp of a slot that was OFF at step 0, by the on-demand condition of the end (R89). -/
theorem State.FreshRamp.by_demand {s t : State} {k : SlotIx} {img : PlanImage} (h : t.FreshRamp k) (hw : t.wide = img.wide)
    (hh : t.holdEmpty = s.holdEmpty) :
    (t.out.state = .onAir ∧ s.holdEmpty = true ∧ (t.slot k).Wants → (t.slot k).ramp = ⟨.rampUp, 0, some img.wide.rampStep⟩) ∧
      (¬ (t.out.state = .onAir ∧ s.holdEmpty = true ∧ (t.slot k).Wants) → (t.slot k).ramp = ⟨.off, 0, none⟩) := by
  obtain ⟨up, down⟩ := h
  rw [← hh, ← State.onDemand_iff, ← hw]
  exact ⟨up, fun d => down (Bool.eq_false_iff.mpr d)⟩

/-- Settles O7: the load is measured against the image's quiet time, and a tx_enable that it changes then moves the transmitter as a
SET_TRANSMIT would. -/
theorem presetReadCompletesTheLoad : Obligations.PresetReadCompletesTheLoad := by
  unfold Obligations.PresetReadCompletesTheLoad
  intro s n img e ha hp he
  have run := State.exec_presetRead ha hp he
  have loaded := s.presetLoaded_loaded img e
  have measured : s.ImageMeasured img (s.presetLoaded img e) := (s.readEnded.imageMeasured_loadImage img).of_readEnded.commit e
  have ramps := fun k (h : (s.slot k).ramp = .rest) => State.presetLoaded_freshRamp h img e
  have formed := s.presetLoaded_quietFormed img e
  generalize s.presetLoaded img e = y at *
  have all := loaded.air (y.airFrame_txEnableWritten s.wide.txEnable)
  have holdEmpty : (y.txEnableWritten s.wide.txEnable).holdEmpty = s.holdEmpty := by rw [State.holdEmpty, State.holdEmpty, all.hold]
  have unmoved : s.wide.txEnable = img.wide.txEnable → y.txEnableWritten s.wide.txEnable = y := fun h =>
    State.txEnableWritten_same (by rw [loaded.wide, h])
  have enabled : s.wide.txEnable = false → img.wide.txEnable = true → y.txEnableWritten s.wide.txEnable = y.txEnabled := fun h h' =>
    State.txEnableWritten_enabled (by rw [loaded.wide, h']) h
  have disabled : s.wide.txEnable = true → img.wide.txEnable = false → y.txEnableWritten s.wide.txEnable = y.txDisabled := fun h h' =>
    State.txEnableWritten_disabled (by rw [loaded.wide, h']) h
  have away : s.out.state ≠ .onAir → y.out.state = s.out.state ∧ y.out.paEn = s.out.paEn ∧ y.out.warmUp = s.out.warmUp := fun h => by
    obtain ⟨state, paEn, warmUp, -⟩ := measured.stays fun ⟨onAir, _⟩ => h onAir
    exact ⟨state, paEn, warmUp⟩
  have state : ∀ x : TxState, x ≠ .onAir → s.out.state = x → y.out.state = x := fun x hx h =>
    (away (by rw [h]; exact hx)).1.trans h
  have stopped : s.out.state = .tripped ∨ s.out.state = .lockout → y.out.state = .tripped ∨ y.out.state = .lockout := fun h =>
    h.imp (state _ (by decide)) (state _ (by decide))
  have stoppedSame : s.out.state = .tripped ∨ s.out.state = .lockout → y.out.state = s.out.state := fun h =>
    (away (by rcases h with h | h <;> rw [h] <;> decide)).1
  refine ⟨_, run, all.wide, all.applied, all.fresh, all.shows, all.engine, all.changes, by rw [all.store]; rfl, by rw [all.store]; rfl,
    by rw [all.store]; rfl, fun m => by rw [all.store]; exact s.store.preset_endRead m, all.budget, all.level, all.hold, all.trips,
    fun k hk => ((ramps k hk).txEnableWritten _).by_demand all.wide holdEmpty, formed.txEnableWritten _, measured.showsTransmitter _,
    fun htx hs => by rw [unmoved htx]; exact away hs, fun htx hs => ?same, fun hf ht => ?on, fun ht hf => ?off⟩
  case same =>
    rw [unmoved htx]
    refine ⟨fun late => ⟨measured.closed hs late, measured.closing hs late⟩, fun not => ?_⟩
    obtain ⟨stays, paEn, -⟩ := measured.stays fun ⟨_, late⟩ => not late
    exact ⟨stays.trans hs, paEn⟩
  case on =>
    rw [enabled hf ht]
    refine ⟨fun hs => ?_, fun hs => ?_, fun hs => ?_⟩
    · rw [State.txEnabled_offAir (state _ (by decide) hs)]
      have entered := y.enterWarmUp_entered
      unfold State.WarmUpEntered at *
      rwa [loaded.level] at entered
    · rw [State.txEnabled_closing (state _ (by decide) hs)]
      exact y.enterOnAir_out
    · rw [State.txEnabled_stopped (stopped hs)]
      exact stoppedSame hs
  case off =>
    rw [disabled ht hf]
    refine ⟨fun hs => ?_, fun hs => ?_, fun hs => ?_, fun hs => ?_, fun hs => ?_⟩
    · rw [State.txDisabled_warmUp (state _ (by decide) hs), State.setTx_out]
      exact ⟨rfl, rfl, rfl⟩
    · by_cases late : s.Overdue img
      · by_cases off : ∀ k, (y.slot k).ramp.state = .off
        · rw [State.txDisabled_standby (measured.closed hs late off).1]
          refine ⟨fun _ => by rw [State.setTx_out]; exact ⟨rfl, rfl⟩, fun ⟨k, on⟩ => ?_⟩
          rw [State.slot_setTx] at on
          exact absurd (off k) on
        · rw [State.txDisabled_closing (measured.closing hs late (not_forall.mp off)).1]
          refine ⟨fun closed => absurd (fun k => ?_) off, fun _ => by rw [State.setTx_out]; exact ⟨rfl, rfl⟩⟩
          rw [← State.slot_setTx y (.closing .offAir)]
          exact closed k
      · obtain ⟨stays, -⟩ := measured.stays fun ⟨_, reached⟩ => late reached
        rw [State.txDisabled_onAir (stays.trans hs)]
        obtain ⟨closed, closing, -⟩ := y.enterClosing_out .offAir
        exact ⟨closed, closing⟩
    · rw [State.txDisabled_closing (state _ (by decide) hs), State.setTx_out]
      exact ⟨rfl, rfl⟩
    · rw [State.txDisabled_standby (state _ (by decide) hs), State.setTx_out]
      exact ⟨rfl, rfl⟩
    · rw [State.txDisabled_stopped (stopped hs)]
      exact stoppedSame hs

end Sys2Proof.Machine
end

section
/-! PROOF. What one measurement does to one slot: its path, its selection and its ramp, as a function of the slot (R63, R66, R71 to R91). -/

namespace Sys2Proof.Machine

/-! ## A slot that hears a measurement -/

/-- The path state that a measurement leaves, for a slot that stands as x; none where nothing is measured (R61). -/
def State.reading (s : State) (x : Slot) (n : PathName) (d : Int) : Option PathState :=
  match x.record.path n with
  | none => none
  | some path => if x.record.assigned then some ((x.path n).judge x.record (s.measuredLevel path.feed d)) else none

/-- The slot x after a measurement, its selection decided, its ramp not yet turned (R66). -/
def State.hear (s : State) (x : Slot) (n : PathName) (d : Int) : Slot :=
  match s.reading x n d with
  | none => x
  | some v =>
    if v.quality = (x.path n).quality then x.putPath n v
    else (x.putPath n v).select (x.sel.decide (x.putPath n v).preferred false s.wide.holdOff)

/-- A change of selection that is a gain or a loss of source, and no switch (R83). -/
def Slot.lostness (x : Slot) : Bool := x.sel.source == .lost

theorem Slot.lostness_iff (x : Slot) : x.lostness = true ↔ x.sel.source = .lost := beq_iff_eq

/-- The slot x after a measurement, its ramp turned where it gains or loses its source while the shared terms of D stand as in s (R89). -/
def State.heard (s : State) (x : Slot) (n : PathName) (d : Int) : Slot :=
  { s.hear x n d with
    ramp :=
      if (s.hear x n d).lostness = x.lostness then x.ramp
      else x.ramp.react (s.airOpen && (s.hear x n d).wanted) s.wide.rampStep }

theorem State.measured_reading (s : State) (k : SlotIx) (n : PathName) (d : Int) : s.measured k n d = s.reading (s.slot k) n d := rfl

theorem State.hear_unread {s : State} {x : Slot} {n : PathName} {d : Int} (h : s.reading x n d = none) : s.hear x n d = x := by
  rw [State.hear, h]

theorem State.hear_same {s : State} {x : Slot} {n : PathName} {d : Int} {v : PathState} (h : s.reading x n d = some v)
    (hq : v.quality = (x.path n).quality) : s.hear x n d = x.putPath n v := by
  rw [State.hear, h]
  exact if_pos hq

theorem State.hear_noticed {s : State} {x : Slot} {n : PathName} {d : Int} {v : PathState} (h : s.reading x n d = some v)
    (hq : v.quality ≠ (x.path n).quality) :
    s.hear x n d = (x.putPath n v).select (x.sel.decide (x.putPath n v).preferred false s.wide.holdOff) := by
  rw [State.hear, h]
  exact if_neg hq

/-- The three ways in which a slot hears a measurement. -/
theorem State.hear_cases (s : State) (x : Slot) (n : PathName) (d : Int) :
    (s.reading x n d = none ∧ s.hear x n d = x) ∨
      ∃ v, s.reading x n d = some v ∧
        ((v.quality = (x.path n).quality ∧ s.hear x n d = x.putPath n v) ∨
          (v.quality ≠ (x.path n).quality ∧
            s.hear x n d = (x.putPath n v).select (x.sel.decide (x.putPath n v).preferred false s.wide.holdOff))) := by
  cases hv : s.reading x n d with
  | none => exact .inl ⟨rfl, State.hear_unread hv⟩
  | some v =>
    by_cases hq : v.quality = (x.path n).quality
    · exact .inr ⟨v, rfl, .inl ⟨hq, State.hear_same hv hq⟩⟩
    · exact .inr ⟨v, rfl, .inr ⟨hq, State.hear_noticed hv hq⟩⟩

/-- What no measurement moves of a slot. -/
structure Slot.SameStanding (x y : Slot) : Prop where
  record : y.record = x.record
  words : y.words = x.words
  ramp : y.ramp = x.ramp
  grant : y.grant = x.grant
  share : y.share = x.share
  retuning : y.retuning = x.retuning

theorem Slot.SameStanding.refl (x : Slot) : x.SameStanding x := ⟨rfl, rfl, rfl, rfl, rfl, rfl⟩

theorem Slot.sameStanding_putPath (x : Slot) (n : PathName) (v : PathState) : x.SameStanding (x.putPath n v) := by
  constructor <;> simp

theorem Slot.sameStanding_select {x y : Slot} (h : x.SameStanding y) (v : Selector) : x.SameStanding (y.select v) :=
  ⟨h.record, h.words, h.ramp, h.grant, h.share, h.retuning⟩

theorem State.sameStanding_hear (s : State) (x : Slot) (n : PathName) (d : Int) : x.SameStanding (s.hear x n d) := by
  rcases s.hear_cases x n d with ⟨-, e⟩ | ⟨v, -, ⟨-, e⟩ | ⟨-, e⟩⟩ <;> rw [e]
  · exact .refl x
  · exact x.sameStanding_putPath n v
  · exact Slot.sameStanding_select (x.sameStanding_putPath n v) _

theorem State.hear_path_of_ne (s : State) (x : Slot) {n m : PathName} (h : m ≠ n) (d : Int) : (s.hear x n d).path m = x.path m := by
  have selected : ∀ (y : Slot) (v : Selector), (y.select v).path m = y.path m := fun y v => by cases m <;> rfl
  rcases s.hear_cases x n d with ⟨-, e⟩ | ⟨v, -, ⟨-, e⟩ | ⟨-, e⟩⟩ <;> rw [e]
  · exact x.path_putPath_of_ne h v
  · rw [selected]
    exact x.path_putPath_of_ne h v

@[simp] theorem State.heard_record (s : State) (x : Slot) (n : PathName) (d : Int) : (s.heard x n d).record = x.record :=
  (s.sameStanding_hear x n d).record

@[simp] theorem State.heard_retuning (s : State) (x : Slot) (n : PathName) (d : Int) : (s.heard x n d).retuning = x.retuning :=
  (s.sameStanding_hear x n d).retuning

theorem State.heard_path_of_ne (s : State) (x : Slot) {n m : PathName} (h : m ≠ n) (d : Int) : (s.heard x n d).path m = x.path m := by
  have same : (s.heard x n d).path m = (s.hear x n d).path m := by cases m <;> rfl
  rw [same, s.hear_path_of_ne x h d]

/-! ## What a measurement depends on -/

theorem Slot.preferred_congr {x y : Slot} (h : x.SameListening y) (hr : y.record = x.record) : y.preferred = x.preferred := by
  rw [Slot.preferred, Slot.preferred, h.primary, h.fallback, hr]

theorem Slot.SameListening.putPath {x y : Slot} (h : x.SameListening y) (n : PathName) (v : PathState) :
    (x.putPath n v).SameListening (y.putPath n v) := by
  cases n
  · exact ⟨rfl, h.fallback, h.sel⟩
  · exact ⟨h.primary, rfl, h.sel⟩

theorem Slot.SameListening.select {x y : Slot} (h : x.SameListening y) (hr : y.record = x.record) (v : Selector) :
    (x.select v).SameListening (y.select v) :=
  ⟨h.primary, h.fallback, by rw [Slot.select, Slot.select, hr]⟩

theorem State.reading_congr {s t : State} {x y : Slot} (h : x.SameListening y) (hr : y.record = x.record) (hf : t.feeds = s.feeds)
    (n : PathName) (d : Int) : t.reading y n d = s.reading x n d := by
  simp only [State.reading, State.measuredLevel, State.receiver_congr hf, hr, h.path n]

theorem State.hear_congr {s t : State} {x y : Slot} (h : x.SameListening y) (hr : y.record = x.record) (hf : t.feeds = s.feeds)
    (hw : t.wide = s.wide) (n : PathName) (d : Int) : (s.hear x n d).SameListening (t.hear y n d) := by
  have reading := State.reading_congr (s := s) (t := t) h hr hf n d
  rcases s.hear_cases x n d with ⟨hv, e⟩ | ⟨v, hv, ⟨hq, e⟩ | ⟨hq, e⟩⟩ <;> rw [e]
  · rw [State.hear_unread (reading.trans hv)]
    exact h
  · rw [State.hear_same (reading.trans hv) (by rw [h.path n]; exact hq)]
    exact h.putPath n v
  · have put := h.putPath n v
    have record : (y.putPath n v).record = (x.putPath n v).record := by simpa using hr
    rw [State.hear_noticed (reading.trans hv) (by rw [h.path n]; exact hq), hw, h.sel, Slot.preferred_congr put record]
    exact put.select record _

theorem State.heard_listening (s : State) (x : Slot) (n : PathName) (d : Int) : (s.heard x n d).SameListening (s.hear x n d) :=
  ⟨rfl, rfl, rfl⟩

/-! ## The notice of a measurement (R66, R72 to R75) -/

theorem Slot.putPath_quality_self (x : Slot) (n : PathName) {v : PathState} (h : v.quality = (x.path n).quality) :
    (x.putPath n v).primary.quality = x.primary.quality ∧ (x.putPath n v).fallback.quality = x.fallback.quality := by
  cases n
  · exact ⟨h, rfl⟩
  · exact ⟨rfl, h⟩

theorem Slot.putPath_quality_ne (x : Slot) (n : PathName) {v : PathState} (h : v.quality ≠ (x.path n).quality) :
    ¬ ((x.putPath n v).primary.quality = x.primary.quality ∧ (x.putPath n v).fallback.quality = x.fallback.quality) := by
  cases n
  · exact fun same => h same.1
  · exact fun same => h same.2

/-- A slot hears a measurement as R66 and Table 4.3.1 have it. -/
theorem State.hear_heard (s : State) (x : Slot) (n : PathName) (d : Int) : Heard s.wide.holdOff x (s.hear x n d) := by
  rcases s.hear_cases x n d with ⟨-, e⟩ | ⟨v, -, ⟨hq, e⟩ | ⟨hq, e⟩⟩ <;> rw [e]
  · exact ⟨fun _ => rfl, fun moved => absurd ⟨rfl, rfl⟩ moved⟩
  · exact ⟨fun _ => x.putPath_sel n v, fun moved => absurd (x.putPath_quality_self n hq) moved⟩
  · refine ⟨fun same => absurd same (x.putPath_quality_ne n hq), fun _ => ⟨fun preferred hp => ?_, Slot.content_select _ _⟩⟩
    rw [Slot.prefers_iff, Slot.select_preferred] at hp
    have noticed := (x.putPath n v).noticed_select s.wide.holdOff
    rw [hp, Slot.putPath_sel] at noticed
    rw [hp]
    exact noticed

theorem Heard.congr {holdOff : Nat} {x y z : Slot} (h : Heard holdOff x y) (same : y.SameListening z) (hr : z.record = y.record) :
    Heard holdOff x z := by
  unfold Heard at *
  rw [same.primary, same.fallback, same.sel, hr]
  obtain ⟨still, moved⟩ := h
  refine ⟨still, fun hq => ?_⟩
  obtain ⟨noticed, content⟩ := moved hq
  refine ⟨fun preferred hp => noticed preferred ?_, content⟩
  rw [Slot.prefers_iff] at hp ⊢
  rw [← Slot.preferred_congr same hr, hp]

theorem State.heard_heard (s : State) (x : Slot) (n : PathName) (d : Int) : Heard s.wide.holdOff x (s.heard x n d) :=
  (s.hear_heard x n d).congr ⟨rfl, rfl, rfl⟩ rfl

/-! ## The turn of the ramp (R89 to R91) -/

theorem Slot.gainsOrLoses_iff (x y : Slot) : x.GainsOrLoses y ↔ y.lostness ≠ x.lostness := by
  have same : y.lostness = x.lostness ↔ (y.sel.source = .lost ↔ x.sel.source = .lost) := by
    rw [Bool.eq_iff_iff, Slot.lostness_iff, Slot.lostness_iff]
  rw [Slot.GainsOrLoses, Slot.Gains, Slot.Gains]
  refine Iff.trans ?_ (not_congr same).symm
  by_cases hx : x.sel.source = .lost <;> by_cases hy : y.sel.source = .lost <;> simp [hx, hy]

theorem State.heard_wants (s : State) (x : Slot) (n : PathName) (d : Int) : (s.heard x n d).wanted = (s.hear x n d).wanted := rfl

theorem State.heard_lostness (s : State) (x : Slot) (n : PathName) (d : Int) : (s.heard x n d).lostness = (s.hear x n d).lostness := rfl

theorem State.heard_ramp (s : State) (x : Slot) (n : PathName) (d : Int) :
    (s.heard x n d).ramp =
      if (s.hear x n d).lostness = x.lostness then x.ramp
      else x.ramp.react (s.airOpen && (s.hear x n d).wanted) s.wide.rampStep := rfl

theorem State.heard_rampHeard (s : State) (x : Slot) (n : PathName) (d : Int) :
    RampHeard s.wide.rampStep (s.out.state = .onAir ∧ s.holdEmpty = true) x (s.heard x n d) := by
  have demand : (s.airOpen && (s.hear x n d).wanted) = true ↔ (s.out.state = .onAir ∧ s.holdEmpty = true) ∧ (s.heard x n d).Wants := by
    rw [Bool.and_eq_true, State.airOpen_iff, ← State.heard_wants, Slot.wanted_iff]
  unfold RampHeard
  rw [Slot.gainsOrLoses_iff, State.heard_lostness, State.heard_ramp, ← demand]
  refine ⟨fun same => if_pos (not_not.mp same), fun moved d => ?_, fun moved d => ?_⟩
  · rw [if_neg moved, d]
    exact Ramp.react_true _ _
  · rw [if_neg moved, Bool.eq_false_iff.mpr d]
    exact Ramp.react_false _ _

theorem Slot.Wants.congr {x y : Slot} (h : x.SameListening y) (hr : y.record = x.record) (hm : y.retuning = x.retuning) :
    y.Wants ↔ x.Wants := by
  rw [Slot.Wants, Slot.Wants, h.sel, hr, hm]

theorem RampHeard.congr {rs : Nat} {a : Prop} {x y z : Slot} (h : RampHeard rs a x y) (same : y.SameListening z)
    (hr : z.record = y.record) (hm : z.retuning = y.retuning) (hz : z.ramp = y.ramp) : RampHeard rs a x z := by
  have gains : x.GainsOrLoses z ↔ x.GainsOrLoses y := by
    rw [Slot.GainsOrLoses, Slot.GainsOrLoses, Slot.Gains, Slot.Gains, Slot.Gains, Slot.Gains, same.sel]
  unfold RampHeard at *
  rw [gains, hz, Slot.Wants.congr same hr hm]
  exact h

/-! ## A measurement as a selection handed on -/

/-- The slot k with a new selection y, handed on as R83 has it: what `applySelection` and `measure` come down to. -/
def State.handOn (s : State) (k : SlotIx) (y : Slot) : State :=
  if y.sel.source = (s.slot k).sel.source then s.putSlot k y
  else if y.lostness = (s.slot k).lostness then (s.putSlot k y).latchSource k
  else ((s.putSlot k y).latchSource k).sourceMoved k

theorem State.putSlot_twice (s : State) (k : SlotIx) (x y : Slot) : (s.putSlot k x).putSlot k y = s.putSlot k y := by
  simp [State.putSlot]

theorem State.putSlot_slot (s : State) (k : SlotIx) : s.putSlot k (s.slot k) = s := by
  have slots : s.slots.set k.val (s.slot k) k.isLt = s.slots := Vector.set_getElem_self k.isLt
  rw [State.putSlot, slots]

/-- A measurement hands on what the slot hears. -/
theorem State.measure_handOn (s : State) (k : SlotIx) (n : PathName) (d : Int) :
    s.measure k n d = s.handOn k (s.hear (s.slot k) n d) := by
  rcases s.hear_cases (s.slot k) n d with ⟨hv, e⟩ | ⟨v, hv, ⟨hq, e⟩ | ⟨hq, e⟩⟩ <;> rw [e]
  · rw [State.measure_none hv, State.handOn, if_pos rfl, State.putSlot_slot]
  · rw [State.measure_some hv, if_pos hq, State.handOn, Slot.putPath_sel, if_pos rfl]
  · have put : (s.putSlot k ((s.slot k).putPath n v)).slot k = (s.slot k).putPath n v := s.slot_putSlot_self k _
    rw [State.measure_some hv, if_neg hq, State.notice, State.applySelection, put, Slot.putPath_sel, State.putSlot_twice, State.handOn]
    by_cases same : ((s.slot k).sel.decide ((s.slot k).putPath n v).preferred false s.wide.holdOff).source = (s.slot k).sel.source
    · exact (if_pos same).trans (if_pos same).symm
    · refine (if_neg same).trans (Eq.trans ?_ (if_neg same).symm)
      by_cases lost : (((s.slot k).putPath n v).select ((s.slot k).sel.decide ((s.slot k).putPath n v).preferred false s.wide.holdOff)).lostness =
          (s.slot k).lostness
      · rw [if_pos lost]
        exact if_neg (by rw [bne_iff_ne, ne_eq, not_not]; exact lost)
      · rw [if_neg lost]
        exact if_pos (bne_iff_ne.mpr lost)

end Sys2Proof.Machine
end

section
/-! PROOF. What the measurements of an interval leave, one after another: an invariant of the sweep (R66, R83, R89, R122, R126). -/

namespace Sys2Proof.Machine

/-! ## What each slot has heard, and what the ports show of it (R83) -/

/-- After some measurements: the slots listen as `cur` has them, and `marked` are those whose source state has changed. -/
structure State.HeardSoFar (s : State) (cur : SlotIx → Slot) (marked : SlotIx → Prop) (u : State) : Prop where
  frame : s.FeedFrame u
  slot : ∀ k, (cur k).SameListening (u.slot k)
  record : ∀ k, (cur k).record = (s.slot k).record
  retuning : ∀ k, (cur k).retuning = (s.slot k).retuning
  shows : ∀ k, marked k → u.ShowsSource k
  unshown : ∀ k, ¬ marked k → ∀ p, (u.port p).changed.getLsbD k.val = (s.port p).changed.getLsbD k.val

namespace State.HeardSoFar

variable {s u : State} {cur : SlotIx → Slot} {marked : SlotIx → Prop}

theorem start (s : State) : s.HeardSoFar s.slot (fun _ => False) s :=
  ⟨.refl s, fun _ => .refl _, fun _ => rfl, fun _ => rfl, fun _ => False.elim, fun _ _ _ => rfl⟩

theorem congr (h : s.HeardSoFar cur marked u) {marked' : SlotIx → Prop} (hm : ∀ k, marked k ↔ marked' k) : s.HeardSoFar cur marked' u := by
  have same : marked = marked' := funext fun k => propext (hm k)
  rwa [← same]

/-- The slot k takes what it has heard. -/
theorem put (h : s.HeardSoFar cur marked u) {k : SlotIx} {y y0 : Slot} (hs : (u.slot k).SameStanding y) (hl : y0.SameListening y)
    (hr : y0.record = (cur k).record) (hm : y0.retuning = (cur k).retuning) :
    s.HeardSoFar (Function.update cur k y0) marked (u.putSlot k y) where
  frame := h.frame.trans (u.feedFrame_putSlot k y hs.record hs.words hs.retuning)
  slot j := by
    by_cases hj : j = k
    · subst hj
      rw [Function.update_self, State.slot_putSlot_self]
      exact hl
    · rw [Function.update_of_ne hj, State.slot_putSlot_of_ne u hj]
      exact h.slot j
  record j := by
    by_cases hj : j = k
    · subst hj
      rw [Function.update_self, hr, h.record]
    · rw [Function.update_of_ne hj, h.record]
  retuning j := by
    by_cases hj : j = k
    · subst hj
      rw [Function.update_self, hm, h.retuning]
    · rw [Function.update_of_ne hj, h.retuning]
  shows := h.shows
  unshown := h.unshown

theorem changed_latchSource (u : State) (j k : SlotIx) (p : Port) :
    ((u.latchSource k).port p).changed.getLsbD j.val = ((u.port p).changed.getLsbD j.val || decide (j = k)) := by
  have bit : (slotBit k).getLsbD j.val = decide (j = k) := by revert j k; decide
  rw [State.port_latchSource, BitVec.getLsbD_or, bit]

/-- A change of source state of slot k is shown. -/
theorem latch (h : s.HeardSoFar cur marked u) (k : SlotIx) : s.HeardSoFar cur (fun j => marked j ∨ j = k) (u.latchSource k) where
  frame := h.frame.trans (u.feedFrame_latchSource k)
  slot := h.slot
  record := h.record
  retuning := h.retuning
  shows j hj p := by
    rw [changed_latchSource]
    rcases hj with hj | hj
    · obtain ⟨source, changed⟩ := h.shows j hj p
      exact ⟨(u.feedFrame_latchSource k).latched source, by rw [changed]; rfl⟩
    · refine ⟨?_, by rw [decide_eq_true hj, Bool.or_true]⟩
      rw [State.port_latchSource]
      exact (PortState.latched_or (u.port p) .source .source).trans (by simp)
  unshown j hj p := by
    rw [changed_latchSource, h.unshown j (fun m => hj (.inl m)) p, decide_eq_false fun e => hj (.inr e), Bool.or_false]

theorem air (h : s.HeardSoFar cur marked u) {t : State} (f : u.AirFrame t) : s.HeardSoFar cur marked t where
  frame := h.frame.trans f.feedFrame
  slot j := (h.slot j).trans (f.listening j)
  record := h.record
  retuning := h.retuning
  shows j hj := (h.shows j hj).kept f.feedFrame
  unshown j hj p := by rw [f.changed, h.unshown j hj p]

end State.HeardSoFar

/-! ## What the transmitter, the ramps and the quiet timer have done (R89, R122, R126) -/

/-- After some measurements: `woken` says that a waking slot has gained its source, `moved` that some slot has gained or lost one, and
`shown` that some source state has changed. -/
structure State.AirSoFar (s : State) (cur : SlotIx → Slot) (woken moved shown : Prop) (u : State) : Prop where
  calm : ¬ shown → u.out = s.out ∧ u.ports = s.ports ∧
    ∀ k, (u.slot k).ramp = (s.slot k).ramp ∧ (u.slot k).grant = (s.slot k).grant ∧ (u.slot k).share = (s.slot k).share
  unwoken : ¬ woken ∨ (s.out.state ≠ .standby ∧ s.out.state ≠ .closing .standby) →
    u.out = { s.out with quiet := u.out.quiet } ∧ ∀ p, (u.port p).latched .txState = (s.port p).latched .txState
  fromStandby : woken → s.out.state = .standby →
    s.WarmUpEntered u ∧ (u.out.state ≠ .standby ∧ u.out.state ≠ .closing .standby ∧ u.out.state ≠ .onAir) ∧
      ∀ p, (u.port p).latched .txState = true
  fromClosing : woken → s.out.state = .closing .standby →
    u.out.state = .onAir ∧ u.out.paEn = true ∧ u.DemandLaw ∧ ∀ p, (u.port p).latched .txState = true
  ramp : ¬ woken ∨ s.out.state ≠ .closing .standby → ∀ k, (u.slot k).ramp = (cur k).ramp
  quiet : moved → u.QuietFormed
  elapsed : u.out.quiet.getD 0 = 0 ∨ u.out.quiet.getD 0 = s.out.quiet.getD 0

namespace State.AirSoFar

variable {s u : State} {cur : SlotIx → Slot} {woken moved shown : Prop}

theorem start (s : State) : s.AirSoFar s.slot False False False s :=
  ⟨fun _ => ⟨rfl, rfl, fun _ => ⟨rfl, rfl, rfl⟩⟩, fun _ => ⟨rfl, fun _ => rfl⟩, False.elim, False.elim, fun _ _ => rfl, False.elim, .inr rfl⟩

theorem congr (h : s.AirSoFar cur woken moved shown u) {woken' moved' shown' : Prop} (hw : woken ↔ woken') (hm : moved ↔ moved')
    (hs : shown ↔ shown') : s.AirSoFar cur woken' moved' shown' u := by
  rwa [← propext hw, ← propext hm, ← propext hs]

/-- What a measurement leaves of the air where no source comes or goes. -/
structure Unmoved (u t : State) : Prop where
  out : t.out = u.out
  wide : t.wide = u.wide
  latched : ∀ p, (t.port p).latched .txState = (u.port p).latched .txState
  slot : ∀ k, (t.slot k).ramp = (u.slot k).ramp ∧ (t.slot k).grant = (u.slot k).grant ∧ (t.slot k).share = (u.slot k).share
  demand : u.DemandLaw → t.DemandLaw
  quiet : t.Quiet ↔ u.Quiet

theorem unmoved (h : s.AirSoFar cur woken moved shown u) {t : State} (f : Unmoved u t) {cur' : SlotIx → Slot} {shown' : Prop}
    (hc : ∀ k, (cur' k).ramp = (cur k).ramp) (hs : shown → shown') (hp : ¬ shown' → t.ports = u.ports) :
    s.AirSoFar cur' woken moved shown' t where
  calm hn := by
    obtain ⟨out, ports, slots⟩ := h.calm fun m => hn (hs m)
    refine ⟨f.out.trans out, (hp hn).trans ports, fun k => ?_⟩
    obtain ⟨ramp, grant, share⟩ := slots k
    obtain ⟨ramp', grant', share'⟩ := f.slot k
    exact ⟨ramp'.trans ramp, grant'.trans grant, share'.trans share⟩
  unwoken hn := by
    obtain ⟨out, latched⟩ := h.unwoken hn
    rw [f.out]
    exact ⟨out, fun p => (f.latched p).trans (latched p)⟩
  fromStandby hw hs := by
    obtain ⟨entered, state, latched⟩ := h.fromStandby hw hs
    unfold State.WarmUpEntered at *
    rw [f.out, f.wide]
    exact ⟨entered, state, fun p => (f.latched p).trans (latched p)⟩
  fromClosing hw hs := by
    obtain ⟨state, paEn, demand, latched⟩ := h.fromClosing hw hs
    rw [f.out]
    exact ⟨state, paEn, f.demand demand, fun p => (f.latched p).trans (latched p)⟩
  ramp hn k := by rw [(f.slot k).1, hc, h.ramp hn]
  quiet hm := by
    unfold State.QuietFormed
    rw [f.out, f.quiet]
    exact h.quiet hm
  elapsed := by
    rw [f.out]
    exact h.elapsed

/-- The shared terms of D stand as they stood, but where a wake from CLOSING has opened the air (R88). -/
theorem airOpen (h : s.AirSoFar cur woken moved shown u) (f : s.FeedFrame u) (hn : ¬ woken ∨ s.out.state ≠ .closing .standby) :
    u.airOpen = s.airOpen := by
  by_cases still : ¬ woken ∨ (s.out.state ≠ .standby ∧ s.out.state ≠ .closing .standby)
  · obtain ⟨out, -⟩ := h.unwoken still
    exact State.airOpen_congr (by rw [out]) f.hold
  · obtain ⟨hw, left⟩ := not_or.mp still
    have notClosing : s.out.state ≠ .closing .standby := hn.resolve_left hw
    have standby : s.out.state = .standby := not_not.mp fun ne => left ⟨ne, notClosing⟩
    obtain ⟨-, ⟨-, -, off⟩, -⟩ := h.fromStandby (not_not.mp hw) standby
    rw [Bool.eq_false_iff.mpr fun open' => off (u.airOpen_iff.mp open').1,
      Bool.eq_false_iff.mpr fun open' => absurd ((s.airOpen_iff.mp open').1) (by rw [standby]; decide)]

/-- A source come or gone: D of slot k and the quiet condition formed anew, before any wake (R83, R89, R122). -/
theorem formed (h : s.AirSoFar cur woken moved shown u) (f : s.FeedFrame u) {v : State} {k : SlotIx} {y0 : Slot} (hout : v.out = u.out)
    (hwide : v.wide = u.wide) (hlatched : ∀ p, (v.port p).latched .txState = (u.port p).latched .txState)
    (hramp : ∀ j, (v.slot j).ramp = (u.slot j).ramp) (hdemand : u.DemandLaw → (v.reformSlot k).DemandLaw)
    (hy : y0.ramp = (cur k).ramp.react (s.airOpen && (v.slot k).wanted) s.wide.rampStep) :
    s.AirSoFar (Function.update cur k y0) woken True True (v.reformSlot k).formQuiet := by
  have out : (v.reformSlot k).formQuiet.out = { u.out with quiet := (v.reformSlot k).formQuiet.out.quiet } := by
    rw [State.formQuiet_out, State.reformSlot_out, hout]
  have latched : ∀ p, ((v.reformSlot k).formQuiet.port p).latched .txState = (u.port p).latched .txState := fun p => by
    rw [State.port_formQuiet, State.port_reformSlot, hlatched]
  have wide : (v.reformSlot k).formQuiet.wide = u.wide := by rw [State.formQuiet_wide, State.reformSlot_wide, hwide]
  have open' : v.airOpen = u.airOpen := State.airOpen_congr (by rw [hout]) (by rw [hout])
  have forms := (v.reformSlot k).formQuiet_forms
  rw [State.reformSlot_out, hout] at forms
  have demand : u.DemandLaw → (v.reformSlot k).formQuiet.DemandLaw := fun hd => (hdemand hd).formQuiet
  have slot : ∀ j, (v.reformSlot k).formQuiet.slot j = (v.reformSlot k).slot j := State.slot_formQuiet _
  generalize (v.reformSlot k).formQuiet = w at *
  refine ⟨fun hn => absurd trivial hn, fun hn => ?_, fun hw hs => ?_, fun hw hs => ?_, fun hn j => ?_, fun _ => forms.1, ?_⟩
  · obtain ⟨still, same⟩ := h.unwoken hn
    refine ⟨?_, fun p => (latched p).trans (same p)⟩
    rw [out, still]
  · obtain ⟨entered, state, same⟩ := h.fromStandby hw hs
    unfold State.WarmUpEntered at *
    rw [out, wide]
    exact ⟨entered, state, fun p => (latched p).trans (same p)⟩
  · obtain ⟨state, paEn, hd, same⟩ := h.fromClosing hw hs
    rw [out]
    exact ⟨state, paEn, demand hd, fun p => (latched p).trans (same p)⟩
  · rw [slot]
    by_cases hj : j = k
    · subst hj
      rw [Function.update_self, State.reformSlot_slot_ramp_self, hramp, h.ramp hn, State.onDemand, open', h.airOpen f hn, hwide, f.wide, hy]
    · rw [Function.update_of_ne hj, State.reformSlot_slot_ramp_of_ne _ hj, hramp, h.ramp hn]
  · cases hq : w.out.quiet with
    | none => exact .inl rfl
    | some ms =>
      rw [Option.getD_some, forms.2 ms hq]
      exact h.elapsed

/-- A wake after the forming (R126). -/
theorem wake {w : State} (h : s.AirSoFar cur woken True True w) (f : s.FeedFrame w) : s.AirSoFar cur True True True w.wake := by
  have stateOf : ∀ x, w.out.state = x → x = .standby ∨ x = .closing .standby → s.out.state = x := fun x hx here => by
    by_cases still : ¬ woken ∨ (s.out.state ≠ .standby ∧ s.out.state ≠ .closing .standby)
    · rw [(h.unwoken still).1] at hx
      exact hx
    · obtain ⟨hw, left⟩ := not_or.mp still
      exfalso
      by_cases hs : s.out.state = .standby
      · obtain ⟨-, ⟨notStandby, notClosing, -⟩, -⟩ := h.fromStandby (not_not.mp hw) hs
        rcases here with here | here
        · exact notStandby (hx.trans here)
        · exact notClosing (hx.trans here)
      · by_cases hc : s.out.state = .closing .standby
        · have onAir := (h.fromClosing (not_not.mp hw) hc).1
          rw [hx] at onAir
          rcases here with here | here <;> rw [here] at onAir <;> cases onAir
        · exact left ⟨hs, hc⟩
  rcases w.wake_cases with ⟨hs, e⟩ | ⟨hs, e⟩ | ⟨hs, hc, e⟩ <;> rw [e]
  case inl =>
    have standby := stateOf _ hs (.inl rfl)
    have frame := w.airFrame_enterWarmUp
    have entered := w.enterWarmUp_entered
    obtain ⟨notOffAir, notStandby, notOnAir, notLockout⟩ := w.enterWarmUp_state_ne
    have notClosing : w.enterWarmUp.out.state ≠ .closing .standby := by
      rw [State.enterWarmUp_state]
      split_ifs <;> nofun
    refine ⟨fun hn => absurd trivial hn, fun hn => ?_, fun _ _ => ⟨?_, ⟨notStandby, notClosing, notOnAir⟩, w.enterWarmUp_shows⟩, fun _ hx => ?_,
      fun hn k => ?_, fun _ => ?_, .inl (by rw [w.enterWarmUp_quiet.1]; rfl)⟩
    · rcases hn with hn | hn
      · exact absurd trivial hn
      · exact absurd standby hn.1
    · unfold State.WarmUpEntered at *
      rwa [f.level] at entered
    · rw [standby] at hx
      cases hx
    · rw [State.slot_congr w.enterWarmUp_slots]
      exact h.ramp (.inr (by rw [standby]; nofun)) k
    · exact State.quietFormed_stopped w.enterWarmUp_quiet.1 notOnAir
  case inr.inl =>
    have closing := stateOf _ hs (.inr rfl)
    obtain ⟨onAir, paEn, -⟩ := w.enterOnAir_out
    refine ⟨fun hn => absurd trivial hn, fun hn => ?_, fun _ hx => ?_, fun _ _ => ⟨onAir, paEn, w.demandLaw_enterOnAir, w.enterOnAir_shows⟩,
      fun hn => ?_, fun _ => w.enterOnAir_quiet.1, ?_⟩
    · rcases hn with hn | hn
      · exact absurd trivial hn
      · exact absurd closing hn.2
    · rw [closing] at hx
      cases hx
    · rcases hn with hn | hn
      · exact absurd trivial hn
      · exact absurd closing hn
    · cases hq : w.enterOnAir.out.quiet with
      | none => exact .inl rfl
      | some ms =>
        rw [Option.getD_some, w.enterOnAir_quiet.2 ms hq]
        exact h.elapsed
  case inr.inr =>
    have already : s.out.state = .standby ∨ s.out.state = .closing .standby → woken := fun here => not_not.mp fun hw => by
      have same := congrArg Output.state (h.unwoken (.inl hw)).1
      rcases here with here | here
      · exact hs (same.trans here)
      · exact hc (same.trans here)
    exact ⟨fun hn => absurd trivial hn, fun hn => h.unwoken (.inr (hn.resolve_left fun n => n trivial)),
      fun _ hx => h.fromStandby (already (.inl hx)) hx, fun _ hx => h.fromClosing (already (.inr hx)) hx,
      fun hn => h.ramp (.inr (hn.resolve_left fun n => n trivial)), h.quiet, h.elapsed⟩

end State.AirSoFar

end Sys2Proof.Machine
end

section
/-! PROOF. The measurements of a whole interval (R61, R66, R71 to R91, R122, R126, R132). -/

namespace Sys2Proof.Machine

/-! ## One measurement -/

theorem Slot.lostness_of_source {x y : Slot} (h : y.sel.source = x.sel.source) : y.lostness = x.lostness := by
  rw [Slot.lostness, Slot.lostness, h]

theorem Slot.hasSource_lostness (x : Slot) : x.hasSource = !x.lostness := rfl

theorem Slot.wanted_of_standing {x y : Slot} (h : x.SameStanding y) (hl : y.lostness = x.lostness) : y.wanted = x.wanted := by
  simp only [Slot.wanted, Slot.hasSource_lostness, h.record, h.retuning, hl]

theorem Slot.gains_iff {x y : Slot} (h : y.lostness ≠ x.lostness) : x.Gains y ↔ y.hasSource = true := by
  have lost : ∀ z : Slot, z.sel.source = .lost ↔ z.lostness = true := fun z => z.lostness_iff.symm
  rw [Slot.Gains, Slot.hasSource_lostness, ne_eq, lost, lost]
  revert h
  cases x.lostness <;> cases y.lostness <;> simp

theorem Slot.not_gains_of_same {x y : Slot} (h : y.lostness = x.lostness) : ¬ x.Gains y := fun ⟨lost, source⟩ =>
  source (y.lostness_iff.mp (h.trans (x.lostness_iff.mpr lost)))

/-- The shared shape of a slot's new state: a source neither comes nor goes. -/
theorem State.AirSoFar.unmoved_put (u : State) {k : SlotIx} {y : Slot} (h : (u.slot k).SameStanding y)
    (hl : y.lostness = (u.slot k).lostness) : State.AirSoFar.Unmoved u (u.putSlot k y) where
  out := rfl
  wide := rfl
  latched _ := rfl
  slot j := by
    by_cases hj : j = k
    · subst hj
      rw [State.slot_putSlot_self]
      exact ⟨h.ramp, h.grant, h.share⟩
    · rw [State.slot_putSlot_of_ne u hj]
      exact ⟨rfl, rfl, rfl⟩
  demand hd := hd.putSlot h.ramp (Slot.wanted_of_standing h hl)
  quiet := by
    have slot : ∀ j, ((u.putSlot k y).slot j).record = (u.slot j).record ∧
        (((u.putSlot k y).slot j).sel.source = .lost ↔ (u.slot j).sel.source = .lost) := fun j => by
      by_cases hj : j = k
      · subst hj
        rw [State.slot_putSlot_self, ← Slot.lostness_iff, ← Slot.lostness_iff, hl]
        exact ⟨h.record, Iff.rfl⟩
      · rw [State.slot_putSlot_of_ne u hj]
        exact ⟨rfl, Iff.rfl⟩
    have slots : (∀ j, ((u.putSlot k y).slot j).record.assigned = true → ((u.putSlot k y).slot j).record.enabled = true →
        ((u.putSlot k y).slot j).sel.source = .lost) ↔
        ∀ j, (u.slot j).record.assigned = true → (u.slot j).record.enabled = true → (u.slot j).sel.source = .lost :=
      forall_congr' fun j => by rw [(slot j).1, (slot j).2]
    exact and_congr Iff.rfl (and_congr Iff.rfl (and_congr Iff.rfl slots))

theorem State.latched_latchSource (u : State) (k : SlotIx) (p : Port) {c : Cause} (h : c ≠ .source) :
    ((u.latchSource k).port p).latched c = (u.port p).latched c := by
  rw [State.port_latchSource]
  exact (PortState.latched_or (u.port p) .source c).trans (by rw [decide_eq_false h.symm, Bool.or_false])

theorem State.AirSoFar.unmoved_latch (u : State) (k : SlotIx) : State.AirSoFar.Unmoved u (u.latchSource k) where
  out := rfl
  wide := rfl
  latched p := u.latched_latchSource k p (by decide)
  slot _ := ⟨rfl, rfl, rfl⟩
  demand hd := hd.same rfl rfl
  quiet := Iff.rfl

section
variable {s u : State} {cur : SlotIx → Slot} {woken moved : Prop} {marked : SlotIx → Prop}

/-- One measurement of slot k, as the slot, the ports, the ramps and the transmitter take it. -/
theorem State.soFar_measure (hh : s.HeardSoFar cur marked u) (ha : s.AirSoFar cur woken moved (∃ j, marked j) u) (k : SlotIx)
    (n : PathName) (d : Int) :
    s.HeardSoFar (Function.update cur k (s.heard (cur k) n d))
        (fun j => marked j ∨ j = k ∧ (s.heard (cur k) n d).sel.source ≠ (cur k).sel.source) (u.measure k n d) ∧
      s.AirSoFar (Function.update cur k (s.heard (cur k) n d))
        (woken ∨ ((cur k).Gains (s.heard (cur k) n d) ∧ (s.slot k).waking = true)) (moved ∨ (cur k).GainsOrLoses (s.heard (cur k) n d))
        (∃ j, marked j ∨ j = k ∧ (s.heard (cur k) n d).sel.source ≠ (cur k).sel.source) (u.measure k n d) := by
  have record : (u.slot k).record = (cur k).record := (hh.frame.record k).trans (hh.record k).symm
  have listening : (s.heard (cur k) n d).SameListening (u.hear (u.slot k) n d) :=
    (s.heard_listening (cur k) n d).trans (State.hear_congr (hh.slot k) record hh.frame.feeds hh.frame.wide n d)
  have standing := u.sameStanding_hear (u.slot k) n d
  have ramp := s.heard_ramp (cur k) n d
  have heardRecord := s.heard_record (cur k) n d
  have heardRetuning := s.heard_retuning (cur k) n d
  have wanted : (u.hear (u.slot k) n d).wanted = (s.hear (cur k) n d).wanted := by
    simp only [Slot.wanted, Slot.hasSource, standing.record, standing.retuning, hh.frame.record, hh.frame.retuning, listening.sel,
      (s.sameStanding_hear (cur k) n d).record, (s.sameStanding_hear (cur k) n d).retuning, hh.record, hh.retuning]
    rfl
  have waking : (u.hear (u.slot k) n d).waking = (s.slot k).waking := by
    rw [Slot.waking, Slot.waking, standing.record, hh.frame.record]
  have source : (u.slot k).sel.source = (cur k).sel.source := by rw [(hh.slot k).sel]
  have lost : (u.slot k).lostness = (cur k).lostness := Slot.lostness_of_source source
  rw [← State.heard_lostness] at ramp
  rw [State.measure_handOn]
  generalize u.hear (u.slot k) n d = y at *
  have newSource : y.sel.source = (s.heard (cur k) n d).sel.source := by rw [listening.sel]
  have newLost : y.lostness = (s.heard (cur k) n d).lostness := Slot.lostness_of_source newSource
  generalize s.heard (cur k) n d = y0 at *
  have put := hh.put standing listening heardRecord heardRetuning
  have rampOf : y0.lostness = (cur k).lostness → ∀ j, (Function.update cur k y0 j).ramp = (cur j).ramp := fun same j => by
    by_cases hj : j = k
    · rw [hj, Function.update_self, ramp, if_pos same]
    · rw [Function.update_of_ne hj]
  have notGains : y0.lostness = (cur k).lostness →
      (woken ↔ woken ∨ ((cur k).Gains y0 ∧ (s.slot k).waking = true)) ∧ (moved ↔ moved ∨ (cur k).GainsOrLoses y0) := fun same => by
    refine ⟨⟨.inl, fun h => h.resolve_right fun ⟨gains, _⟩ => Slot.not_gains_of_same same gains⟩,
      ⟨.inl, fun h => h.resolve_right fun gains => ((cur k).gainsOrLoses_iff y0).mp gains same⟩⟩
  unfold State.handOn
  rw [newSource, source, newLost, lost]
  by_cases same : y0.sel.source = (cur k).sel.source
  · rw [if_pos same]
    have sameLost := Slot.lostness_of_source same
    have marks : ∀ j, marked j ↔ marked j ∨ j = k ∧ y0.sel.source ≠ (cur k).sel.source := fun j =>
      ⟨.inl, fun h => h.resolve_right fun ⟨_, ne⟩ => ne same⟩
    exact ⟨put.congr marks, (ha.unmoved (State.AirSoFar.unmoved_put u standing (by rw [newLost, lost, sameLost])) (rampOf sameLost) id
      fun _ => rfl).congr (notGains sameLost).1 (notGains sameLost).2 (exists_congr marks)⟩
  · have marks : ∀ j, marked j ∨ j = k ↔ marked j ∨ j = k ∧ y0.sel.source ≠ (cur k).sel.source := fun j =>
      or_congr_right ⟨fun h => ⟨h, same⟩, And.left⟩
    have shown : (∃ j, marked j ∨ j = k) ↔ True := ⟨fun _ => trivial, fun _ => ⟨k, .inr rfl⟩⟩
    have latched := put.latch k
    rw [if_neg same]
    by_cases sameLost : y0.lostness = (cur k).lostness
    · rw [if_pos sameLost]
      have air := (ha.unmoved (State.AirSoFar.unmoved_put u standing (by rw [newLost, lost, sameLost])) (rampOf sameLost) id
        fun _ => rfl).unmoved (State.AirSoFar.unmoved_latch _ k) (shown' := True) (fun _ => rfl) (fun _ => trivial) fun n => absurd trivial n
      exact ⟨latched.congr marks, air.congr (notGains sameLost).1 (notGains sameLost).2 (shown.symm.trans (exists_congr marks))⟩
    · rw [if_neg sameLost]
      have slot : ((u.putSlot k y).latchSource k).slot k = y := by rw [State.slot_latchSource, State.slot_putSlot_self]
      have formed := ha.formed hh.frame (v := (u.putSlot k y).latchSource k) (k := k) (y0 := y0) rfl rfl
        (fun p => State.latched_latchSource _ k p (by decide)) (fun j => by
          rw [State.slot_latchSource]
          exact u.slot_put_ramp j k y standing.ramp)
        (fun hd => State.demandLaw_slotChange hd rfl fun j hj => by
          rw [State.slot_latchSource, State.slot_putSlot_of_ne u hj])
        (by rw [ramp, if_neg sameLost, slot, wanted])
      have heard := (latched.air (State.airFrame_sourceMoved _ k)).congr marks
      have moves : True ↔ moved ∨ (cur k).GainsOrLoses y0 := ⟨fun _ => .inr (((cur k).gainsOrLoses_iff y0).mpr sameLost), fun _ => trivial⟩
      have shows : True ↔ ∃ j, marked j ∨ j = k ∧ y0.sel.source ≠ (cur k).sel.source := shown.symm.trans (exists_congr marks)
      have gains : (cur k).Gains y0 ↔ y.hasSource = true := by
        rw [Slot.gains_iff sameLost, Slot.hasSource_lostness, Slot.hasSource_lostness, newLost]
      refine ⟨heard, ?_⟩
      unfold State.sourceMoved
      simp only
      rw [slot, waking]
      by_cases wakes : (y.hasSource && (s.slot k).waking) = true
      · rw [if_pos wakes]
        rw [Bool.and_eq_true] at wakes
        have frame : s.FeedFrame (((u.putSlot k y).latchSource k).reformSlot k).formQuiet :=
          (latched.frame.trans (State.airFrame_reformSlot _ k).feedFrame).trans (State.airFrame_formQuiet _).feedFrame
        exact (formed.wake frame).congr ⟨fun _ => .inr ⟨gains.mpr wakes.1, wakes.2⟩, fun _ => trivial⟩ moves shows
      · rw [if_neg wakes]
        rw [Bool.and_eq_true] at wakes
        exact formed.congr ⟨.inl, fun h => h.resolve_right fun ⟨g, w⟩ => wakes ⟨gains.mp g, w⟩⟩ moves shows

end

/-! ## The two measurements of a slot (R81) -/

/-- The slot between its two measurements, in the order delivered. -/
def State.midOf (s : State) (k : SlotIx) (d : Delivered) : Slot :=
  if d.fallbackFirst then s.heard (s.slot k) .fallback d.fallback else s.heard (s.slot k) .primary d.primary

/-- The slot after both. -/
def State.lastOf (s : State) (k : SlotIx) (d : Delivered) : Slot :=
  if d.fallbackFirst then s.heard (s.midOf k d) .primary d.primary else s.heard (s.midOf k d) .fallback d.fallback

/-- A waking slot gains its source in the interval. -/
def State.WakesAt (s : State) (levels : Levels) (k : SlotIx) : Prop :=
  ((s.slot k).Gains (s.midOf k levels[k.val]) ∨ (s.midOf k levels[k.val]).Gains (s.lastOf k levels[k.val])) ∧ (s.slot k).waking = true

/-- A slot gains or loses its source in the interval. -/
def State.MovesAt (s : State) (levels : Levels) (k : SlotIx) : Prop :=
  (s.slot k).GainsOrLoses (s.midOf k levels[k.val]) ∨ (s.midOf k levels[k.val]).GainsOrLoses (s.lastOf k levels[k.val])

/-- A slot's source state changes in the interval. -/
def State.MarksAt (s : State) (levels : Levels) (k : SlotIx) : Prop :=
  (s.midOf k levels[k.val]).sel.source ≠ (s.slot k).sel.source ∨
    (s.lastOf k levels[k.val]).sel.source ≠ (s.midOf k levels[k.val]).sel.source

theorem State.soFar_measureSlot {s u : State} {cur : SlotIx → Slot} {woken moved : Prop} {marked : SlotIx → Prop}
    (hh : s.HeardSoFar cur marked u) (ha : s.AirSoFar cur woken moved (∃ j, marked j) u) (levels : Levels) {k : SlotIx}
    (hk : cur k = s.slot k) :
    s.HeardSoFar (Function.update cur k (s.lastOf k levels[k.val])) (fun j => marked j ∨ j = k ∧ s.MarksAt levels k)
        (u.measureSlot k levels[k.val]) ∧
      s.AirSoFar (Function.update cur k (s.lastOf k levels[k.val])) (woken ∨ s.WakesAt levels k) (moved ∨ s.MovesAt levels k)
        (∃ j, marked j ∨ j = k ∧ s.MarksAt levels k) (u.measureSlot k levels[k.val]) := by
  have marks : ∀ a b : Prop, ∀ j, (marked j ∨ j = k ∧ a) ∨ j = k ∧ b ↔ marked j ∨ j = k ∧ (a ∨ b) := fun a b j => by tauto
  have wakes : ∀ a b c : Prop, (woken ∨ (a ∧ c)) ∨ (b ∧ c) ↔ woken ∨ ((a ∨ b) ∧ c) := fun a b c => by tauto
  have both : ∀ (n m : PathName) (d e : Int), _ := fun n m d e =>
    let first := State.soFar_measure hh ha k n d
    State.soFar_measure first.1 first.2 k m e
  simp only [Function.update_self, Function.update_idem, hk] at both
  unfold State.measureSlot State.WakesAt State.MovesAt State.MarksAt State.lastOf State.midOf
  split
  · obtain ⟨heard, air⟩ := both .fallback .primary levels[k.val].fallback levels[k.val].primary
    exact ⟨heard.congr (marks _ _), air.congr (wakes _ _ _) or_assoc (exists_congr (marks _ _))⟩
  · obtain ⟨heard, air⟩ := both .primary .fallback levels[k.val].primary levels[k.val].fallback
    exact ⟨heard.congr (marks _ _), air.congr (wakes _ _ _) or_assoc (exists_congr (marks _ _))⟩

/-! ## The sweep -/

theorem State.soFar_sweep {s : State} (levels : Levels) : ∀ (l : List SlotIx) {u : State} {cur : SlotIx → Slot} {woken moved : Prop}
    {marked : SlotIx → Prop}, l.Nodup → (∀ k ∈ l, cur k = s.slot k) → s.HeardSoFar cur marked u →
    s.AirSoFar cur woken moved (∃ j, marked j) u →
    ∃ cur', (∀ k ∈ l, cur' k = s.lastOf k levels[k.val]) ∧ (∀ k, k ∉ l → cur' k = cur k) ∧
      s.HeardSoFar cur' (fun j => marked j ∨ j ∈ l ∧ s.MarksAt levels j) (l.foldl (fun u k => u.measureSlot k levels[k.val]) u) ∧
      s.AirSoFar cur' (woken ∨ ∃ k ∈ l, s.WakesAt levels k) (moved ∨ ∃ k ∈ l, s.MovesAt levels k)
        (∃ j, marked j ∨ j ∈ l ∧ s.MarksAt levels j) (l.foldl (fun u k => u.measureSlot k levels[k.val]) u) := by
  intro l
  induction l with
  | nil =>
    intro u cur woken moved marked _ _ hh ha
    exact ⟨cur, by simp, fun _ _ => rfl, by simpa using hh, by simpa using ha⟩
  | cons i l ih =>
    intro u cur woken moved marked once start hh ha
    obtain ⟨apart, rest⟩ := List.nodup_cons.mp once
    obtain ⟨heard, air⟩ := State.soFar_measureSlot hh ha levels (start i List.mem_cons_self)
    have startRest : ∀ k ∈ l, Function.update cur i (s.lastOf i levels[i.val]) k = s.slot k := fun k hk => by
      have ne : k ≠ i := fun e => apart (e ▸ hk)
      rw [Function.update_of_ne ne]
      exact start k (List.mem_cons_of_mem i hk)
    obtain ⟨cur', inside, outside, heard', air'⟩ := ih rest startRest heard air
    have marks : ∀ j, (marked j ∨ j = i ∧ s.MarksAt levels i) ∨ j ∈ l ∧ s.MarksAt levels j ↔ marked j ∨ j ∈ i :: l ∧ s.MarksAt levels j :=
      fun j => by
        have own : j = i ∧ s.MarksAt levels i ↔ j = i ∧ s.MarksAt levels j :=
          ⟨fun ⟨e, h⟩ => ⟨e, e ▸ h⟩, fun ⟨e, h⟩ => ⟨e, e ▸ h⟩⟩
        rw [own, List.mem_cons]
        tauto
    have some : ∀ (a : Prop) (P : SlotIx → Prop), (a ∨ P i) ∨ (∃ k ∈ l, P k) ↔ a ∨ ∃ k ∈ i :: l, P k := fun a P => by
      rw [List.exists_mem_cons_iff, or_assoc]
    refine ⟨cur', fun k hk => ?_, fun k hk => ?_, heard'.congr marks, air'.congr (some _ _) (some _ _) (exists_congr marks)⟩
    · rcases List.mem_cons.mp hk with e | hk
      · rw [e, outside i apart, Function.update_self]
      · exact inside k hk
    · obtain ⟨hi, hl⟩ := List.ne_and_not_mem_of_not_mem_cons hk
      rw [outside k hl, Function.update_of_ne hi]

/-- The sweep of an interval, as each slot, the ports, the ramps and the transmitter take it. -/
theorem State.soFar_interval (s : State) (levels : Levels) :
    s.HeardSoFar (fun k => s.lastOf k levels[k.val]) (s.MarksAt levels)
        (slotIndices.foldl (fun u k => u.measureSlot k levels[k.val]) s) ∧
      s.AirSoFar (fun k => s.lastOf k levels[k.val]) (∃ k, s.WakesAt levels k) (∃ k, s.MovesAt levels k) (∃ k, s.MarksAt levels k)
        (slotIndices.foldl (fun u k => u.measureSlot k levels[k.val]) s) := by
  obtain ⟨cur, inside, -, heard, air⟩ := State.soFar_sweep (s := s) levels slotIndices slotIndices_nodup (fun _ _ => rfl) (.start s)
    ((State.AirSoFar.start s).congr Iff.rfl Iff.rfl ⟨False.elim, fun ⟨_, h⟩ => h⟩)
  obtain rfl : cur = fun k => s.lastOf k levels[k.val] := funext fun k => inside k (mem_slotIndices k)
  have every : ∀ P : SlotIx → Prop, (∃ k ∈ slotIndices, P k) ↔ ∃ k, P k := fun P => by simp [mem_slotIndices]
  have marks : ∀ j, False ∨ j ∈ slotIndices ∧ s.MarksAt levels j ↔ s.MarksAt levels j := fun j => by simp [mem_slotIndices]
  exact ⟨heard.congr marks, air.congr ((or_iff_right id).trans (every _)) ((or_iff_right id).trans (every _)) (exists_congr marks)⟩

end Sys2Proof.Machine
end

section
/-! PROOF. What the measurements of an interval do to the selections: the statement put together (R66, R71 to R91, R122, R126, R132). -/

namespace Sys2Proof.Machine

/-! ## The slot between its two measurements and after them -/

theorem State.midOf_primaryFirst {s : State} {d : Delivered} (h : d.fallbackFirst = false) (k : SlotIx) :
    s.midOf k d = s.heard (s.slot k) .primary d.primary ∧ s.lastOf k d = s.heard (s.midOf k d) .fallback d.fallback := by
  simp only [State.midOf, State.lastOf, h]
  exact ⟨rfl, rfl⟩

theorem State.midOf_fallbackFirst {s : State} {d : Delivered} (h : d.fallbackFirst = true) (k : SlotIx) :
    s.midOf k d = s.heard (s.slot k) .fallback d.fallback ∧ s.lastOf k d = s.heard (s.midOf k d) .primary d.primary := by
  simp only [State.midOf, State.lastOf, h]
  exact ⟨rfl, rfl⟩

/-- Both measurements of a slot, whatever their order. -/
theorem State.midOf_heard (s : State) (k : SlotIx) (d : Delivered) :
    ∃ n m a b, s.midOf k d = s.heard (s.slot k) n a ∧ s.lastOf k d = s.heard (s.midOf k d) m b := by
  cases h : d.fallbackFirst with
  | false => exact ⟨_, _, _, _, State.midOf_primaryFirst h k⟩
  | true => exact ⟨_, _, _, _, State.midOf_fallbackFirst h k⟩

theorem State.midOf_standing (s : State) (k : SlotIx) (d : Delivered) :
    (s.midOf k d).record = (s.slot k).record ∧ (s.midOf k d).retuning = (s.slot k).retuning := by
  obtain ⟨n, m, a, b, mid, -⟩ := s.midOf_heard k d
  rw [mid]
  exact ⟨s.heard_record _ n a, s.heard_retuning _ n a⟩

theorem State.midOf_paths (s : State) (k : SlotIx) (d : Delivered) :
    (d.fallbackFirst = false → (s.midOf k d).primary = (s.lastOf k d).primary ∧ (s.midOf k d).fallback = (s.slot k).fallback) ∧
      (d.fallbackFirst = true → (s.midOf k d).primary = (s.slot k).primary ∧ (s.midOf k d).fallback = (s.lastOf k d).fallback) := by
  refine ⟨fun h => ?_, fun h => ?_⟩
  · obtain ⟨mid, last⟩ := s.midOf_primaryFirst h k
    refine ⟨?_, ?_⟩
    · rw [last]
      exact (s.heard_path_of_ne (s.midOf k d) (n := .fallback) (m := .primary) (by decide) d.fallback).symm
    · rw [mid]
      exact s.heard_path_of_ne (s.slot k) (n := .primary) (m := .fallback) (by decide) d.primary
  · obtain ⟨mid, last⟩ := s.midOf_fallbackFirst h k
    refine ⟨?_, ?_⟩
    · rw [mid]
      exact s.heard_path_of_ne (s.slot k) (n := .fallback) (m := .primary) (by decide) d.fallback
    · rw [last]
      exact (s.heard_path_of_ne (s.midOf k d) (n := .primary) (m := .fallback) (by decide) d.primary).symm

theorem Slot.waking_iff (x : Slot) :
    x.waking = true ↔ x.record.assigned = true ∧ x.record.enabled = true ∧ x.record.wakes = true := by
  simp [Slot.waking, and_assoc]

/-! ## The interval as a whole -/

/-- What an interval leaves, in the terms of the statement: `mid` between the two measurements of each slot, `t` after all of them. -/
structure State.IntervalMeasured (s : State) (levels : Levels) (mid : SlotIx → Slot) (wakes : Prop) (t : State) : Prop where
  standing : ∀ k, (mid k).record = (s.slot k).record ∧ (mid k).retuning = (s.slot k).retuning
  primaryFirst : ∀ k, levels[k.val].fallbackFirst = false → (mid k).primary = (t.slot k).primary ∧ (mid k).fallback = (s.slot k).fallback
  fallbackFirst : ∀ k, levels[k.val].fallbackFirst = true → (mid k).primary = (s.slot k).primary ∧ (mid k).fallback = (t.slot k).fallback
  first : ∀ k, Heard s.wide.holdOff (s.slot k) (mid k)
  second : ∀ k, Heard s.wide.holdOff (mid k) (t.slot k)
  shows : ∀ k, (mid k).sel.source ≠ (s.slot k).sel.source ∨ (t.slot k).sel.source ≠ (mid k).sel.source → t.ShowsSource k
  unshown : ∀ k, (mid k).sel.source = (s.slot k).sel.source → (t.slot k).sel.source = (mid k).sel.source →
    ∀ p, (t.port p).changed.getLsbD k.val = (s.port p).changed.getLsbD k.val
  calm : (∀ k, (mid k).sel.source = (s.slot k).sel.source ∧ (t.slot k).sel.source = (mid k).sel.source) →
    t.out = s.out ∧ t.ports = s.ports ∧
      ∀ k, (t.slot k).ramp = (s.slot k).ramp ∧ (t.slot k).grant = (s.slot k).grant ∧ (t.slot k).share = (s.slot k).share
  wakes_iff : wakes ↔
    ∃ k, ((s.slot k).Gains (mid k) ∨ (mid k).Gains (t.slot k)) ∧ (s.slot k).record.assigned = true ∧
      (s.slot k).record.enabled = true ∧ (s.slot k).record.wakes = true
  fromStandby : wakes → s.out.state = .standby → s.WarmUpEntered t
  transmitter : s.ShowsTransmitter t
  fromClosing : wakes → s.out.state = .closing .standby → t.out.state = .onAir ∧ t.out.paEn = true ∧
    ∀ k, (s.holdEmpty = true ∧ (t.slot k).Wants → (t.slot k).ramp.state = .rampUp ∨ (t.slot k).ramp.state = .on) ∧
      (¬ (s.holdEmpty = true ∧ (t.slot k).Wants) → (t.slot k).ramp.state = .off ∨ (t.slot k).ramp.state = .rampDown)
  unwoken : ¬ wakes ∨ (s.out.state ≠ .standby ∧ s.out.state ≠ .closing .standby) → t.out = { s.out with quiet := t.out.quiet }
  ramps : ¬ wakes ∨ s.out.state ≠ .closing .standby →
    ∀ k, RampHeard s.wide.rampStep (s.out.state = .onAir ∧ s.holdEmpty = true) (s.slot k) (mid k) ∧
      RampHeard s.wide.rampStep (s.out.state = .onAir ∧ s.holdEmpty = true) (mid k) (t.slot k)
  quiet : (∃ k, (s.slot k).GainsOrLoses (mid k) ∨ (mid k).GainsOrLoses (t.slot k)) →
    (t.out.quiet.isSome = true ↔ t.Quiet) ∧ ∀ ms, t.out.quiet = some ms → ms = 0 ∨ ms = s.out.quiet.getD 0

/-- The transmitter after some measurements is shown (R125, R132). -/
theorem State.AirSoFar.showsTransmitter {s u : State} {cur : SlotIx → Slot} {woken moved shown : Prop}
    (h : s.AirSoFar cur woken moved shown u) : s.ShowsTransmitter u := by
  by_cases still : ¬ woken ∨ (s.out.state ≠ .standby ∧ s.out.state ≠ .closing .standby)
  · obtain ⟨out, latched⟩ := h.unwoken still
    exact ⟨fun moved => absurd (congrArg Output.state out) moved, fun _ => latched⟩
  · obtain ⟨hw, left⟩ := not_or.mp still
    by_cases standby : s.out.state = .standby
    · obtain ⟨-, ⟨notStandby, -, -⟩, latched⟩ := h.fromStandby (not_not.mp hw) standby
      exact .of_moved (by rw [standby]; exact notStandby) latched
    · have closing : s.out.state = .closing .standby := not_not.mp fun ne => left ⟨standby, ne⟩
      obtain ⟨onAir, -, -, latched⟩ := h.fromClosing (not_not.mp hw) closing
      exact .of_moved (by rw [onAir, closing]; decide) latched

theorem RampState.not_up {r : RampState} (h : ¬ (r = .rampUp ∨ r = .on)) : r = .off ∨ r = .rampDown := by
  cases r <;> simp at h ⊢

theorem State.intervalMeasured (s : State) (levels : Levels) :
    s.IntervalMeasured levels (fun k => s.midOf k levels[k.val]) (∃ k, s.WakesAt levels k)
      (slotIndices.foldl (fun u k => u.measureSlot k levels[k.val]) s) := by
  obtain ⟨heard, air⟩ := s.soFar_interval levels
  generalize slotIndices.foldl (fun u k => u.measureSlot k levels[k.val]) s = t at *
  have listening : ∀ k, (s.lastOf k levels[k.val]).SameListening (t.slot k) := heard.slot
  have record : ∀ k, (t.slot k).record = (s.lastOf k levels[k.val]).record := fun k =>
    (heard.frame.record k).trans (heard.record k).symm
  have retuning : ∀ k, (t.slot k).retuning = (s.lastOf k levels[k.val]).retuning := fun k =>
    (heard.frame.retuning k).trans (heard.retuning k).symm
  have source : ∀ k, (t.slot k).sel.source = (s.lastOf k levels[k.val]).sel.source := fun k => by rw [(listening k).sel]
  have gains : ∀ k (x : Slot), x.Gains (t.slot k) ↔ x.Gains (s.lastOf k levels[k.val]) := fun k x => by
    rw [Slot.Gains, Slot.Gains, source]
  have moves : ∀ k (x : Slot), x.GainsOrLoses (t.slot k) ↔ x.GainsOrLoses (s.lastOf k levels[k.val]) := fun k x => by
    rw [Slot.gainsOrLoses_iff, Slot.gainsOrLoses_iff, Slot.lostness_of_source (source k)]
  have holdEmpty : t.holdEmpty = s.holdEmpty := by rw [State.holdEmpty, State.holdEmpty, heard.frame.hold]
  refine ⟨fun k => s.midOf_standing k _, fun k h => ?_, fun k h => ?_, fun k => ?_, fun k => ?_, fun k h => ?_, fun k h h' => ?_,
    fun h => ?_, ?_, fun hw hs => (air.fromStandby hw hs).1, air.showsTransmitter, fun hw hs => ?_, fun h => (air.unwoken h).1,
    fun h k => ?_, fun ⟨k, h⟩ => ?_⟩
  case refine_1 =>
    rw [(listening k).primary]
    exact (s.midOf_paths k _).1 h
  case refine_2 =>
    rw [(listening k).fallback]
    exact (s.midOf_paths k _).2 h
  case refine_3 =>
    obtain ⟨n, m, a, b, mid, -⟩ := s.midOf_heard k levels[k.val]
    rw [mid]
    exact s.heard_heard _ n a
  case refine_4 =>
    obtain ⟨n, m, a, b, -, last⟩ := s.midOf_heard k levels[k.val]
    have second := s.heard_heard (s.midOf k levels[k.val]) m b
    rw [← last] at second
    exact second.congr (listening k) (record k)
  case refine_5 =>
    rw [source] at h
    exact heard.shows k h
  case refine_6 =>
    rw [source] at h'
    exact heard.unshown k fun marked => marked.elim (fun ne => ne h) fun ne => ne h'
  case refine_7 =>
    refine air.calm fun ⟨k, marked⟩ => ?_
    obtain ⟨first, second⟩ := h k
    rw [source] at second
    exact marked.elim (fun ne => ne first) fun ne => ne second
  case refine_8 =>
    refine exists_congr fun k => ?_
    rw [State.WakesAt, gains, Slot.waking_iff]
  case refine_9 =>
    obtain ⟨onAir, paEn, demand, -⟩ := air.fromClosing hw hs
    refine ⟨onAir, paEn, fun k => ?_⟩
    have up := demand k
    rw [State.onDemand_iff, holdEmpty] at up
    exact ⟨fun h => up.mpr ⟨onAir, h⟩, fun h => RampState.not_up fun hr => h (up.mp hr).2⟩
  case refine_10 =>
    obtain ⟨n, m, a, b, mid, last⟩ := s.midOf_heard k levels[k.val]
    have second := s.heard_rampHeard (s.midOf k levels[k.val]) m b
    rw [← last] at second
    refine ⟨?_, second.congr (listening k) (record k) (retuning k) (air.ramp h k)⟩
    rw [mid]
    exact s.heard_rampHeard _ n a
  case refine_11 =>
    rw [moves] at h
    refine ⟨air.quiet ⟨k, h⟩, fun ms hq => ?_⟩
    have elapsed := air.elapsed
    rwa [hq, Option.getD_some] at elapsed

theorem State.monitor_eq (s : State) (levels : Levels) :
    s.monitor levels = slotIndices.foldl (fun u k => u.measureSlot k levels[k.val]) { s with monitorIn := 10 } := rfl

/-- Settles O32: the slots of an interval listen one after another, each by its own two measurements, and the first waking gain alone moves
the transmitter. -/
theorem measuredQualityMovesTheSelection : Obligations.MeasuredQualityMovesTheSelection := by
  unfold Obligations.MeasuredQualityMovesTheSelection
  intro s levels
  have measured := State.intervalMeasured { s with monitorIn := 10 } levels
  rw [← State.monitor_eq] at measured
  generalize (fun k => State.midOf { s with monitorIn := 10 } k levels[k.val]) = mid at measured
  generalize (∃ k, State.WakesAt { s with monitorIn := 10 } levels k) = wakes at measured
  refine ⟨s.monitor levels, mid, wakes, rfl, ?_⟩
  generalize s.monitor levels = t at measured
  obtain ⟨standing, primaryFirst, fallbackFirst, first, second, shows, unshown, calm, iff, fromStandby, transmitter, fromClosing, unwoken,
    ramps, quiet⟩ := measured
  exact ⟨fun k => ⟨(standing k).1, (standing k).2, primaryFirst k, fallbackFirst k, first k, second k, shows k, unshown k⟩, calm, iff,
    fromStandby, transmitter, fun hw hs => ⟨(fromClosing hw hs).1, (fromClosing hw hs).2.1, fun k _ => (fromClosing hw hs).2.2 k⟩, unwoken,
    ramps, quiet⟩

end Sys2Proof.Machine
end
